-- ==== Sys2Proof/Word.lean ====
section
/-! DEFINITION. The word types of the block (spec/00_scope.md R7, spec/30_encoding.md R60, R62). -/

namespace Sys2Proof

/-- A byte is 8 bits (R7, R40). -/
abbrev Byte := BitVec 8

/-- LEN, CRC, CRCACC, the operand `arg` and the response `value` are 32 bits (R7). -/
abbrev Word := BitVec 32

/-- A command word CW: `CW[39:32] = op`, `CW[31:0] = arg` (R60). -/
abbrev CommandWord := BitVec 40

/-- A response word RW: `RW[39:32] = status`, `RW[31:0] = value` (R62). -/
abbrev ResponseWord := BitVec 40

end Sys2Proof
end

