-- ==== Sys2Proof/Config.lean ====
section
/-! DEFINITION. The three implementation parameters (spec/00_scope.md R5). -/

namespace Sys2Proof

/-- The parameters the model takes as arguments (R5). They stand in `State.cfg`, so that a statement
about every state is a statement about every capacity; no step changes them. The ranges R5 gives
them are `Config.wf` (WellFormed.lean). -/
structure Config where
  /-- PAYLOAD_MAX: capacity in bytes of the payload store PAY. -/
  payloadMax : Nat
  /-- RX_MAX: capacity in bytes of the receive queue RXQ. -/
  rxMax : Nat
  /-- TX_MAX: capacity in bytes of the transmit queue TXQ. -/
  txMax : Nat
  deriving DecidableEq, Repr

/-- The capacities `State.reset` stands on: the largest R5 allows, which R6 names as the choice that
recovers the source's behaviour. DESIGN CHOICE (log 3), unsafe: a real block may be smaller; no
statement about the block rests on these numbers. -/
def Config.largest : Config :=
  { payloadMax := 2 ^ 32 - 1, rxMax := 2 ^ 32 - 1, txMax := 2 ^ 32 - 1 }

end Sys2Proof
end

