-- ==== Sys2Proof/Syntax.lean ====
section
/-! DEFINITION. The 22 commands of the block: one constructor for each row of spec/opcode_table.json
(spec/30_encoding.md R65), and the operand formats (R63). Operands carry exactly the bits the encoding
gives them, so a command with an operand out of range cannot be written down. -/

namespace Sys2Proof

/-- The three operand formats (R63). -/
inductive Format where
  /-- No operand: arg = 0. -/
  | N
  /-- One byte `imm8 = arg[7:0]`: arg[31:8] = 0. -/
  | B
  /-- One word `imm32 = arg[31:0]`: no constraint. -/
  | W
  deriving DecidableEq, Repr

/-- A command (R65); "a command is this block's instruction" (R14). -/
inductive Instr where
  /-- SYS.NOP, op 0x00 (R140). -/
  | sysNop
  /-- SYS.RST, op 0x01 (R141). -/
  | sysRst
  /-- CRC.INIT, op 0x10 (R84). -/
  | crcInit
  /-- CRC.UPD imm8, op 0x11: data byte (R85). -/
  | crcUpd (imm8 : Byte)
  /-- CRC.RD, op 0x12 (R86). -/
  | crcRd
  /-- CH.CLR, op 0x20 (R91). -/
  | chClr
  /-- CH.PUSH imm8, op 0x21: payload byte (R92). -/
  | chPush (imm8 : Byte)
  /-- CH.NEW imm32, op 0x22: type code (R93). -/
  | chNew (imm32 : Word)
  /-- CH.STAT, op 0x23 (R94). -/
  | chStat
  /-- CH.RDLEN, op 0x24 (R95). -/
  | chRdlen
  /-- CH.RDTYPE, op 0x25 (R96). -/
  | chRdtype
  /-- CH.RDCRC, op 0x26 (R97). -/
  | chRdcrc
  /-- CH.RDPAY imm32, op 0x27: byte index (R98). -/
  | chRdpay (imm32 : Word)
  /-- SER.EMIT, op 0x30 (R111). -/
  | serEmit
  /-- TX.POP, op 0x31 (R112). -/
  | txPop
  /-- TX.CNT, op 0x32 (R113). -/
  | txCnt
  /-- TX.FLUSH, op 0x33 (R114). -/
  | txFlush
  /-- RX.PUSH imm8, op 0x40: wire byte (R121). -/
  | rxPush (imm8 : Byte)
  /-- RX.CNT, op 0x41 (R122). -/
  | rxCnt
  /-- RX.FLUSH, op 0x42 (R123). -/
  | rxFlush
  /-- DES.PARSE, op 0x43 (R124). -/
  | desParse
  /-- TYP.FLAGS imm32, op 0x50: type code (R131). -/
  | typFlags (imm32 : Word)
  deriving DecidableEq, Repr

/-- The operand format of a command (R65, column "format"). -/
def Instr.format : Instr → Format
  | .sysNop => .N
  | .sysRst => .N
  | .crcInit => .N
  | .crcUpd _ => .B
  | .crcRd => .N
  | .chClr => .N
  | .chPush _ => .B
  | .chNew _ => .W
  | .chStat => .N
  | .chRdlen => .N
  | .chRdtype => .N
  | .chRdcrc => .N
  | .chRdpay _ => .W
  | .serEmit => .N
  | .txPop => .N
  | .txCnt => .N
  | .txFlush => .N
  | .rxPush _ => .B
  | .rxCnt => .N
  | .rxFlush => .N
  | .desParse => .N
  | .typFlags _ => .W

end Sys2Proof
end

