-- ==== Sys2Proof/WellFormed.lean ====
section
/-! DEFINITION. What is well-formed: the parameters (spec/00_scope.md R5) and a command word
(spec/30_encoding.md R63, R65, R66). Every term of `Instr` is well-formed, since its operands carry
exactly the encoding's bits; what can be ill-formed is a 40-bit command word, which the host may
choose freely, and the three parameters. -/

namespace Sys2Proof

/-- The ranges of the parameters (R5). -/
def Config.wf (c : Config) : Bool :=
  decide (c.payloadMax ≤ 2 ^ 32 - 1) &&
  (decide (12 ≤ c.rxMax) && decide (c.rxMax ≤ 2 ^ 32 - 1)) &&
  (decide (12 ≤ c.txMax) && decide (c.txMax ≤ 2 ^ 32 - 1))

/-- A row of the command table as a matching rule (R63): a word matches when `(CW and mask) = match`. -/
structure TableRow where
  /-- The row's `match`: op shifted left 32 bits. -/
  pattern : CommandWord
  /-- The row's operand format, which gives its mask. -/
  format : Format
  deriving DecidableEq, Repr

/-- The mask of a format (R63). -/
def Format.mask : Format → CommandWord
  | .N => 0xFFFFFFFFFF#40
  | .B => 0xFFFFFFFF00#40
  | .W => 0xFF00000000#40

/-- Whether a command word matches a row (R63). -/
def TableRow.matchesWord (r : TableRow) (cw : CommandWord) : Bool :=
  cw &&& r.format.mask == r.pattern

/-- The command table (R65) in the mask and match form of spec/opcode_table.json. -/
def opcodeTable : List TableRow :=
  [⟨0x0000000000#40, .N⟩, ⟨0x0100000000#40, .N⟩] ++
  [⟨0x1000000000#40, .N⟩, ⟨0x1100000000#40, .B⟩, ⟨0x1200000000#40, .N⟩] ++
  [⟨0x2000000000#40, .N⟩, ⟨0x2100000000#40, .B⟩, ⟨0x2200000000#40, .W⟩, ⟨0x2300000000#40, .N⟩] ++
  [⟨0x2400000000#40, .N⟩, ⟨0x2500000000#40, .N⟩, ⟨0x2600000000#40, .N⟩, ⟨0x2700000000#40, .W⟩] ++
  [⟨0x3000000000#40, .N⟩, ⟨0x3100000000#40, .N⟩, ⟨0x3200000000#40, .N⟩, ⟨0x3300000000#40, .N⟩] ++
  [⟨0x4000000000#40, .B⟩, ⟨0x4100000000#40, .N⟩, ⟨0x4200000000#40, .N⟩, ⟨0x4300000000#40, .N⟩] ++
  [⟨0x5000000000#40, .W⟩]

/-- A command word is legal when it matches a row of the table; every other word is illegal (R66). The
check looks at the word alone (R67). -/
def wellFormedWord (cw : CommandWord) : Bool :=
  opcodeTable.any fun r => r.matchesWord cw

end Sys2Proof
end

