-- ==== Sys2Proof/Decode.lean ====
section
/-! DEFINITION. The decoder and the encoder of command words (spec/30_encoding.md R60 to R66). -/

namespace Sys2Proof

/-- `CW[39:32]` (R60). -/
def opField (cw : CommandWord) : Byte := cw.extractLsb' 32 8

/-- `CW[31:0]` (R60). -/
def argField (cw : CommandWord) : Word := cw.extractLsb' 0 32

/-- The command word with the given opcode and operand (R60). -/
def commandWord (op : Byte) (arg : Word) : CommandWord := op ++ arg

/-- Why a command word is illegal (R66): the three cases of that rule. -/
inductive Illegal where
  /-- The opcode is unassigned. -/
  | unassignedOpcode (op : Byte)
  /-- The opcode is assigned with format N and arg ≠ 0. -/
  | operandNotZero (arg : Word)
  /-- The opcode is assigned with format B and arg[31:8] ≠ 0. -/
  | reservedBitsNotZero (arg : Word)
  deriving DecidableEq, Repr

/-- Format N (R63): arg must be 0. -/
def noOperand (arg : Word) (i : Instr) : Except Illegal Instr :=
  if arg = 0 then .ok i else .error (.operandNotZero arg)

/-- Format B (R63): `imm8 = arg[7:0]`, and arg[31:8] must be 0. -/
def byteOperand (arg : Word) (i : Byte → Instr) : Except Illegal Instr :=
  if arg.extractLsb' 8 24 = 0 then .ok (i (arg.extractLsb' 0 8)) else .error (.reservedBitsNotZero arg)

/-- Format W (R63): `imm32 = arg`, no constraint. -/
def wordOperand (arg : Word) (i : Word → Instr) : Except Illegal Instr :=
  .ok (i arg)

/-- The opcode map, by the whole 8-bit opcode (R61, R65); every opcode not listed is unassigned. -/
def decodeFields (op : Byte) (arg : Word) : Except Illegal Instr :=
  match op with
  | 0x00#8 => noOperand arg .sysNop
  | 0x01#8 => noOperand arg .sysRst
  | 0x10#8 => noOperand arg .crcInit
  | 0x11#8 => byteOperand arg .crcUpd
  | 0x12#8 => noOperand arg .crcRd
  | 0x20#8 => noOperand arg .chClr
  | 0x21#8 => byteOperand arg .chPush
  | 0x22#8 => wordOperand arg .chNew
  | 0x23#8 => noOperand arg .chStat
  | 0x24#8 => noOperand arg .chRdlen
  | 0x25#8 => noOperand arg .chRdtype
  | 0x26#8 => noOperand arg .chRdcrc
  | 0x27#8 => wordOperand arg .chRdpay
  | 0x30#8 => noOperand arg .serEmit
  | 0x31#8 => noOperand arg .txPop
  | 0x32#8 => noOperand arg .txCnt
  | 0x33#8 => noOperand arg .txFlush
  | 0x40#8 => byteOperand arg .rxPush
  | 0x41#8 => noOperand arg .rxCnt
  | 0x42#8 => noOperand arg .rxFlush
  | 0x43#8 => noOperand arg .desParse
  | 0x50#8 => wordOperand arg .typFlags
  | other => .error (.unassignedOpcode other)

/-- The decoder, total on the 2^40 command words (R66). -/
def decode (cw : CommandWord) : Except Illegal Instr :=
  decodeFields (opField cw) (argField cw)

/-- The opcode of a command (R65, column "op"). -/
def opcodeOf : Instr → Byte
  | .sysNop => 0x00#8
  | .sysRst => 0x01#8
  | .crcInit => 0x10#8
  | .crcUpd _ => 0x11#8
  | .crcRd => 0x12#8
  | .chClr => 0x20#8
  | .chPush _ => 0x21#8
  | .chNew _ => 0x22#8
  | .chStat => 0x23#8
  | .chRdlen => 0x24#8
  | .chRdtype => 0x25#8
  | .chRdcrc => 0x26#8
  | .chRdpay _ => 0x27#8
  | .serEmit => 0x30#8
  | .txPop => 0x31#8
  | .txCnt => 0x32#8
  | .txFlush => 0x33#8
  | .rxPush _ => 0x40#8
  | .rxCnt => 0x41#8
  | .rxFlush => 0x42#8
  | .desParse => 0x43#8
  | .typFlags _ => 0x50#8

/-- The operand field of a command: 0 for format N, the zero-extended byte for format B, the word for
format W (R63, R64). -/
def argOf : Instr → Word
  | .sysNop => 0
  | .sysRst => 0
  | .crcInit => 0
  | .crcUpd imm8 => imm8.setWidth 32
  | .crcRd => 0
  | .chClr => 0
  | .chPush imm8 => imm8.setWidth 32
  | .chNew imm32 => imm32
  | .chStat => 0
  | .chRdlen => 0
  | .chRdtype => 0
  | .chRdcrc => 0
  | .chRdpay imm32 => imm32
  | .serEmit => 0
  | .txPop => 0
  | .txCnt => 0
  | .txFlush => 0
  | .rxPush imm8 => imm8.setWidth 32
  | .rxCnt => 0
  | .rxFlush => 0
  | .desParse => 0
  | .typFlags imm32 => imm32

/-- The command word of a command (R60, R63, R65). -/
def encode (i : Instr) : CommandWord := commandWord (opcodeOf i) (argOf i)

/-- The unit that `op[7:4]` names (R61); a reading aid, decoding does not use it. -/
inductive HwUnit where
  /-- Unit 0. -/
  | SYS
  /-- Unit 1. -/
  | CRC
  /-- Unit 2: the chunk slot. -/
  | CH
  /-- Unit 3: SER and TX. -/
  | SERTX
  /-- Unit 4: DES and RX. -/
  | DESRX
  /-- Unit 5. -/
  | TYP
  deriving DecidableEq, Repr

/-- The unit of an opcode; units 6 to 15 are unassigned (R61). -/
def unitOf (op : Byte) : Option HwUnit :=
  match (op.extractLsb' 4 4).toNat with
  | 0 => some .SYS
  | 1 => some .CRC
  | 2 => some .CH
  | 3 => some .SERTX
  | 4 => some .DESRX
  | 5 => some .TYP
  | _ => none

/-- The command word that the low `nbits` bits of `w` spell, bits above `nbits` being 0; `none` where
they do not fit the one 40-bit word a command has (R60). -/
def tableWord (nbits w : Nat) : Option CommandWord :=
  if w % 2 ^ nbits < 2 ^ 40 then some (BitVec.ofNat 40 (w % 2 ^ nbits)) else none

/-- What the decoder reads from an instruction numbered as spec/opcode_table.json numbers its bits: the
table's one word is the 40-bit command word itself, bit 0 its least significant bit (log 6). -/
def decodeTableWord (nbits w : Nat) : Option Instr :=
  match tableWord nbits w with
  | none => none
  | some cw =>
    match decode cw with
    | .ok i => some i
    | .error _ => none

end Sys2Proof
end

