-- ==== Sys2Proof/Machine/State.lean ====
section
/-! DEFINITION. The state of the block (spec/10_state.md R20, in the abstract view of R32), the host's
side of the command port, and the state after reset (R36). Plain data. -/

namespace Sys2Proof.Machine

/-- Why the machine stops with a fault. No constructor: the spec gives the block no fault. Every outcome
is a response (R150 "the core never panics/aborts"), an error is a status (R151), there are no traps
(R157), and a host that stops issuing leaves the block in its state (R165). Nothing raises one; safe. -/
inductive Fault where
  deriving DecidableEq, Repr

/-- Why the machine refuses an instruction. -/
inductive Refusal where
  /-- Raised by `exec` for a command that has no meaning yet, under its mnemonic; safe (the model stops
  where the block goes on). No arm of `exec` raises it: every command has its meaning. -/
  | notModelled (mnemonic : String)
  deriving DecidableEq, Repr

/-- The response statuses (spec/60_exceptions.md R151). -/
inductive Status where
  | ok
  | truncatedInput
  | crcMismatch
  | illegalCommand
  | notSealed
  | sealed
  | indexRange
  | payloadFull
  | rxFull
  | txFull
  | txEmpty
  deriving DecidableEq, Repr

/-- A response: its status and its 32-bit value (spec/30_encoding.md R62). -/
structure Response where
  status : Status
  value : Word
  deriving DecidableEq, Repr

/-- What the host can do to the block (spec/60_exceptions.md R165): present any 40-bit command word, or
assert reset between two commands (spec/70_reset_and_hazards.md R170). -/
inductive HostMove where
  | issue (cw : CommandWord)
  | reset
  deriving DecidableEq, Repr

/-- TYPE[0..3]: the four bytes of a type code, `b0` first on the wire (R20, R44). -/
structure TypeCode where
  b0 : Byte
  b1 : Byte
  b2 : Byte
  b3 : Byte
  deriving DecidableEq, Repr

/-- The registers TYPE and CRC of a sealed slot (R24, R32). -/
structure Chunk where
  /-- TYPE[0..3]. -/
  code : TypeCode
  /-- CRC. -/
  crc : Word
  deriving DecidableEq, Repr

/-- The state of the block (R20) in the abstract view R32 gives of it, and the model's own fields
(`cfg`, `port`, `responses`). -/
structure State where
  /-- PAYLOAD_MAX, RX_MAX, TX_MAX: the model's arguments (R5; log 3). -/
  cfg : Config
  /-- CRCACC: the raw accumulator of the stand-alone generator (R33). -/
  crcacc : Word
  /-- PAY[0..LEN), LEN being its length (R25, R27, R32). -/
  pay : List Byte
  /-- SEALED = 1 iff this is `some`, and then TYPE and CRC (R28, R32; log 5). -/
  chunk : Option Chunk
  /-- RXQ, head first (R10, R40). -/
  rxq : List Byte
  /-- TXQ, head first (R10, R40). -/
  txq : List Byte
  /-- What the host presents next, in order (R12, R165; log 1). -/
  port : List HostMove
  /-- The responses delivered to the host, oldest first (R62, R153; log 2). -/
  responses : List Response
  deriving DecidableEq, Repr

/-- LEN, in unbounded integers (R20, R32). -/
def State.len (s : State) : Nat := s.pay.length

/-- SEALED (R28, R32). -/
def State.isSealed (s : State) : Bool := s.chunk.isSome

/-- RXCNT (R20). -/
def State.rxcnt (s : State) : Nat := s.rxq.length

/-- TXCNT (R20). -/
def State.txcnt (s : State) : Nat := s.txq.length

/-- The state after reset of a block with the given capacities (R36, R170): CRCACC = 0xFFFFFFFF, LEN = 0,
SEALED = 0, RXQ and TXQ empty; TYPE, CRC and every PAY byte hold no value. The host has presented
nothing and received nothing (log 1, log 2). -/
def State.resetWith (cfg : Config) : State :=
  { cfg := cfg, crcacc := 0xFFFFFFFF#32, pay := [], chunk := none, rxq := [], txq := [], port := [], responses := [] }

/-- The machine right after reset (R36, R170), with the capacities of log 3. -/
def State.reset : State := State.resetWith Config.largest

/-- The three byte stores keep within their capacities (R30): the canonical form of the block's memory. A
store is the list of its valid bytes, so equal stores are equal lists. -/
abbrev Memory.wf (s : State) : Prop :=
  s.pay.length ≤ s.cfg.payloadMax ∧ s.rxq.length ≤ s.cfg.rxMax ∧ s.txq.length ≤ s.cfg.txMax

end Sys2Proof.Machine
end

