-- ==== Sys2Proof/Machine/Operands.lean ====
section
/-! DEFINITION. Operand and byte-order forms (spec/00_scope.md R10, spec/20_memory.md R43 to R45,
spec/30_encoding.md R62, R64): packing a type code, big-endian fields, zero extension. -/

namespace Sys2Proof.Machine

/-- `zext_32(b)` (R10). -/
def zext32 (b : Byte) : Word := b.setWidth 32

/-- `be32(v)`: the four bytes v[31:24], v[23:16], v[15:8], v[7:0] (R10, R43). -/
def be32 (v : Word) : List Byte :=
  [v.extractLsb' 24 8, v.extractLsb' 16 8, v.extractLsb' 8 8, v.extractLsb' 0 8]

/-- `unbe32(b0,b1,b2,b3)` (R10, R43): the bytes side by side, b0 most significant. That its value is
`b0·2^24 + b1·2^16 + b2·2^8 + b3` is `unbe32_toNat` (Laws/Bytes.lean). -/
def unbe32 (b0 b1 b2 b3 : Byte) : Word := b0 ++ b1 ++ b2 ++ b3

/-- A type-code operand (R45, R64): TYPE[0] = imm32[31:24], TYPE[1] = imm32[23:16],
TYPE[2] = imm32[15:8], TYPE[3] = imm32[7:0]. -/
def TypeCode.ofWord (v : Word) : TypeCode :=
  { b0 := v.extractLsb' 24 8, b1 := v.extractLsb' 16 8, b2 := v.extractLsb' 8 8, b3 := v.extractLsb' 0 8 }

/-- A type code as a 32-bit field (R45, R96). -/
def TypeCode.toWord (t : TypeCode) : Word := unbe32 t.b0 t.b1 t.b2 t.b3

/-- A type code as the bytes it is on the wire, TYPE[0] first (R44). -/
def TypeCode.bytes (t : TypeCode) : List Byte := [t.b0, t.b1, t.b2, t.b3]

/-- A count or length as the 32-bit value of a response (R7, R62). -/
def countWord (n : Nat) : Word := BitVec.ofNat 32 n

/-- The byte `q[i]` of a queue (R9). Every reader first checks i < |q| (R124), so the value given beyond
the end is never used. -/
def byteAt (q : List Byte) (i : Nat) : Byte := q.getD i 0

/-- `unbe32(q[i], q[i+1], q[i+2], q[i+3])` (R124): a field assembled from four single bytes (R47). -/
def wordAt (q : List Byte) (i : Nat) : Word :=
  unbe32 (byteAt q i) (byteAt q (i + 1)) (byteAt q (i + 2)) (byteAt q (i + 3))

/-- The type code `q[i .. i+4)` (R124). -/
def codeAt (q : List Byte) (i : Nat) : TypeCode :=
  { b0 := byteAt q i, b1 := byteAt q (i + 1), b2 := byteAt q (i + 2), b3 := byteAt q (i + 3) }

/-- The subsequence `q[a .. a+n)` (R9). -/
def slice (q : List Byte) (a n : Nat) : List Byte := (q.drop a).take n

/-- The status codes (spec/60_exceptions.md R151). -/
def Status.code : Status → Byte
  | .ok => 0x00#8
  | .truncatedInput => 0x01#8
  | .crcMismatch => 0x02#8
  | .illegalCommand => 0x10#8
  | .notSealed => 0x11#8
  | .sealed => 0x12#8
  | .indexRange => 0x13#8
  | .payloadFull => 0x14#8
  | .rxFull => 0x15#8
  | .txFull => 0x16#8
  | .txEmpty => 0x17#8

/-- The response word: `RW[39:32] = status`, `RW[31:0] = value` (R62). -/
def Response.word (r : Response) : ResponseWord := r.status.code ++ r.value

end Sys2Proof.Machine
end

