-- ==== Sys2Proof/Machine/Checksum.lean ====
section
/-! DEFINITION. The CRC-32 generator: crc_step, crc_raw, crc32 (spec/40_crc32.md R80 to R82). The initial
value, the final XOR and the bit order are the spec's own rules, which it marks as general knowledge
confirmed by the source's value (R83, spec/93_implementation_defined.md G1; log 9). -/

namespace Sys2Proof.Machine

/-- The constant of the right-shifting register (R80). -/
def crcPoly : Word := 0xEDB88320#32

/-- The initial register value (R81). -/
def crcInitial : Word := 0xFFFFFFFF#32

/-- The final XOR (R82). -/
def crcFinalXor : Word := 0xFFFFFFFF#32

/-- One of the eight iterations of `crc_step` (R80): a logical right shift, then the constant if the bit
shifted out was 1. -/
def crcShift (r : Word) : Word :=
  if r.getLsbD 0 then (r >>> 1) ^^^ crcPoly else r >>> 1

/-- `crc_step(c, b)` (R80): the byte enters at the low end, then eight iterations. -/
def crcStep (c : Word) (b : Byte) : Word :=
  Nat.iterate crcShift 8 (c ^^^ zext32 b)

/-- The register after all bytes of `s`, started from `c` (R77(b)). -/
def crcFold (c : Word) (s : List Byte) : Word := s.foldl crcStep c

/-- `crc_raw(s)` (R81). -/
def crcRaw (s : List Byte) : Word := crcFold crcInitial s

/-- `crc32(s) = crc_raw(s) xor 0xFFFFFFFF` (R82). -/
def crc32 (s : List Byte) : Word := crcRaw s ^^^ crcFinalXor

/-- The CRC-32 of a chunk: over its type code and its payload and nothing else (R29, R72). -/
def chunkCrc (t : TypeCode) (pay : List Byte) : Word := crc32 (t.bytes ++ pay)

end Sys2Proof.Machine
end

