-- ==== Sys2Proof/Machine/Flags.lean ====
section
/-! DEFINITION. Every flag of the block: the stored flag SEALED as CH.STAT reports it (spec/10_state.md
R28, R35; spec/41_chunk_slot.md R94), and the six flags that TYP.FLAGS computes from its operand
(spec/44_type_flags.md R130 to R132). -/

namespace Sys2Proof.Machine

/-- CH.STAT's value: v[0] = SEALED, v[31:1] = 0 (R94). -/
def statWord (sealedBit : Bool) : Word := if sealedBit then 1#32 else 0#32

/-- Bit 5 of a byte, the bit of weight 0x20 (R8, R130). -/
def bit5 (b : Byte) : Bool := b.getLsbD 5

/-- CRITICAL: 1 iff b0[5] = 0 (R131). -/
def flagCritical (t : TypeCode) : Bool := !bit5 t.b0

/-- PUBLIC: 1 iff b1[5] = 0 (R131). -/
def flagPublic (t : TypeCode) : Bool := !bit5 t.b1

/-- RESERVED_VALID: 1 iff b2[5] = 0 (R131). -/
def flagReservedValid (t : TypeCode) : Bool := !bit5 t.b2

/-- SAFE_TO_COPY: 1 iff b3[5] = 1 (R131; note the polarity). -/
def flagSafeToCopy (t : TypeCode) : Bool := bit5 t.b3

/-- VALID: equal to RESERVED_VALID (R131). -/
def flagValid (t : TypeCode) : Bool := flagReservedValid t

/-- Whether a byte lies in 0x41 … 0x5A or in 0x61 … 0x7A (R132). -/
def isLetter (b : Byte) : Bool :=
  (decide (0x41 ≤ b.toNat) && decide (b.toNat ≤ 0x5A)) || (decide (0x61 ≤ b.toNat) && decide (b.toNat ≤ 0x7A))

/-- ALPHA: 1 iff each of the four bytes is a letter (R132). -/
def flagAlpha (t : TypeCode) : Bool := isLetter t.b0 && isLetter t.b1 && isLetter t.b2 && isLetter t.b3

/-- A flag at its bit position. -/
def flagAt (f : Bool) (i : Nat) : Word := if f then 1#32 <<< i else 0#32

/-- TYP.FLAGS' value: bits 0 to 5, the others 0 (R131). -/
def typeFlags (t : TypeCode) : Word :=
  flagAt (flagCritical t) 0 ||| flagAt (flagPublic t) 1 ||| flagAt (flagReservedValid t) 2 |||
  flagAt (flagSafeToCopy t) 3 ||| flagAt (flagValid t) 4 ||| flagAt (flagAlpha t) 5

end Sys2Proof.Machine
end

