-- ==== Sys2Proof/Machine/Ops.lean ====
section
/-! DEFINITION. The named operations over the state (spec/00_scope.md R10), the error response (R10
"raise", spec/60_exceptions.md R152), reset (spec/70_reset_and_hazards.md R170), and the frame codec
(spec/30_encoding.md R70, spec/43_deserializer.md R124). -/

namespace Sys2Proof.Machine

/-- `respond(status, value)`: the command ends and its response word is delivered (R10, R62). -/
def respond (st : Status) (value : Word) (s : State) : State :=
  { s with responses := s.responses ++ [⟨st, value⟩] }

/-- `raise <Error>`, this block's whole exception entry (R10, R157): nothing was written, the response
is (code, 0) (R152). There is no return from it (R157). -/
def raise (e : Status) (s : State) : State := respond e 0#32 s

/-- `MemRead(PAY, i, 1)`: the byte PAY[i], defined only for i < LEN (R10). -/
def memRead (s : State) (i : Nat) : Option Byte := s.pay[i]?

/-- `MemWrite(PAY, LEN, 1, b); LEN <- LEN + 1`: one byte staged, the write using the old LEN (R92). -/
def stageByte (b : Byte) (s : State) : State := { s with pay := s.pay ++ [b] }

/-- `LEN <- 0; SEALED <- 0`: TYPE, CRC and all PAY bytes become unreadable (R91). -/
def clearSlot (s : State) : State := { s with pay := [], chunk := none }

/-- TYPE and CRC written and SEALED <- 1 (R93). -/
def sealSlot (t : TypeCode) (crc : Word) (s : State) : State := { s with chunk := some ⟨t, crc⟩ }

/-- CRCACC <- v (R84, R85). -/
def setCrcacc (v : Word) (s : State) : State := { s with crcacc := v }

/-- `enqueue(RXQ, bs)` (R10). -/
def enqueueRx (bs : List Byte) (s : State) : State := { s with rxq := s.rxq ++ bs }

/-- `dequeue(RXQ, n)` (R10). -/
def dequeueRx (n : Nat) (s : State) : State := { s with rxq := s.rxq.drop n }

/-- `enqueue(TXQ, bs)` (R10). -/
def enqueueTx (bs : List Byte) (s : State) : State := { s with txq := s.txq ++ bs }

/-- `dequeue(TXQ, n)` (R10). -/
def dequeueTx (n : Nat) (s : State) : State := { s with txq := s.txq.drop n }

/-- Every item of R20 takes its reset value (R36, R141, R170). The parameters, the host's coming moves and
the responses already delivered are no items of the block's state (R20). -/
def resetBlock (s : State) : State :=
  { s with crcacc := 0xFFFFFFFF#32, pay := [], chunk := none, rxq := [], txq := [] }

/-- The wire form of a chunk: `be32(length) ++ type ++ payload ++ be32(crc)` (R70). -/
def frameBytes (t : TypeCode) (pay : List Byte) (crc : Word) : List Byte :=
  be32 (countWord pay.length) ++ t.bytes ++ pay ++ be32 crc

/-- The length of a frame with L payload bytes, in unbounded integers (R71, R179). -/
def frameLength (L : Nat) : Nat := 12 + L

/-- A frame taken from the head of the receive queue (R124). -/
structure ParsedFrame where
  code : TypeCode
  pay : List Byte
  crc : Word
  deriving DecidableEq, Repr

/-- Checks 2 to 5 of DES.PARSE on the whole queue, in order, all arithmetic in unbounded integers (R124). -/
def parseFrame (payloadMax : Nat) (q : List Byte) : Except Status ParsedFrame :=
  if q.length < 12 then .error .truncatedInput
  else
    let L := (wordAt q 0).toNat
    if q.length < frameLength L then .error .truncatedInput
    else if payloadMax < L then .error .payloadFull
    else
      let t := codeAt q 4
      let p := slice q 8 L
      let c := wordAt q (8 + L)
      if chunkCrc t p ≠ c then .error .crcMismatch
      else .ok ⟨t, p, c⟩

/-- What a successful parse writes: the slot entirely, sealed, and the frame's 12 + L bytes leave the
head of the queue (R124). -/
def loadFrame (f : ParsedFrame) (s : State) : State :=
  sealSlot f.code f.crc { dequeueRx (frameLength f.pay.length) s with pay := f.pay }

/-- The next thing the host does, and the state without it; `none` while the host is silent (R165). -/
def nextMove (s : State) : Option (HostMove × State) :=
  match s.port with
  | [] => none
  | m :: rest => some (m, { s with port := rest })

/-- The host has presented nothing: the block stays in its state (R165), nothing happens between
commands (R156). -/
def idle (s : State) : State := s

/-- Reset applied between two commands: every item at its reset value, no response (R170, R171). -/
def hardwareReset (s : State) : State := resetBlock s

/-- An illegal command word changes no state and answers (IllegalCommand, 0), whatever made it illegal
(R66). -/
def illegalWord (_why : Illegal) (s : State) : State := raise .illegalCommand s

/-- The host presents the command word before everything else it was going to do. -/
def presentFirst (cw : CommandWord) (s : State) : State := { s with port := .issue cw :: s.port }

end Sys2Proof.Machine
end

