-- ==== Sys2Proof/Machine/Crc.lean ====
section
/-! DEFINITION. The commands of the stand-alone CRC generator (spec/40_crc32.md R84 to R86). -/

namespace Sys2Proof.Machine

/-- CRC.INIT: CRCACC <- 0xFFFFFFFF, (OK, 0) (R84). -/
def execCrcInit (s : State) : Host.Outcome State Fault Refusal :=
  .next (respond .ok 0#32 (setCrcacc crcInitial s))

/-- CRC.UPD imm8: CRCACC <- crc_step(CRCACC, imm8), (OK, 0) (R85). -/
def execCrcUpd (imm8 : Byte) (s : State) : Host.Outcome State Fault Refusal :=
  .next (respond .ok 0#32 (setCrcacc (crcStep s.crcacc imm8) s))

/-- CRC.RD: nothing written, (OK, CRCACC xor 0xFFFFFFFF) (R86). -/
def execCrcRd (s : State) : Host.Outcome State Fault Refusal :=
  .next (respond .ok (s.crcacc ^^^ crcFinalXor) s)

end Sys2Proof.Machine
end

