-- ==== Sys2Proof/Machine/Deserializer.lean ====
section
/-! DEFINITION. The deserializer and the receive queue (spec/43_deserializer.md R121 to R124). -/

namespace Sys2Proof.Machine

/-- RX.PUSH imm8: RxFull, else the byte is queued unexamined, (OK, 0) (R121). -/
def execRxPush (imm8 : Byte) (s : State) : Host.Outcome State Fault Refusal :=
  .next
    (if s.rxcnt = s.cfg.rxMax then raise .rxFull s
     else respond .ok 0#32 (enqueueRx [imm8] s))

/-- RX.CNT: (OK, RXCNT) (R122). -/
def execRxCnt (s : State) : Host.Outcome State Fault Refusal :=
  .next (respond .ok (countWord s.rxcnt) s)

/-- RX.FLUSH: RXQ <- empty, (OK, 0) (R123). -/
def execRxFlush (s : State) : Host.Outcome State Fault Refusal :=
  .next (respond .ok 0#32 (dequeueRx s.rxcnt s))

/-- DES.PARSE: the checks of `parseFrame` in their order; on an error nothing is written; on success the
slot is overwritten, 12 + L bytes leave RXQ, (OK, 12 + L) (R124). Allowed whatever the slot holds. -/
def execDesParse (s : State) : Host.Outcome State Fault Refusal :=
  .next
    (match parseFrame s.cfg.payloadMax s.rxq with
     | .error e => raise e s
     | .ok f => respond .ok (countWord (frameLength f.pay.length)) (loadFrame f s))

end Sys2Proof.Machine
end

