-- ==== Sys2Proof/Machine/Serializer.lean ====
section
/-! DEFINITION. The serializer and the transmit queue (spec/42_serializer.md R111 to R114). -/

namespace Sys2Proof.Machine

/-- SER.EMIT: NotSealed, then TxFull when fewer than 12 + LEN bytes are free (unbounded integers), then
the frame of the sealed chunk is queued whole, (OK, 12 + LEN); the slot is not changed (R111). -/
def execSerEmit (s : State) : Host.Outcome State Fault Refusal :=
  .next
    (match s.chunk with
     | none => raise .notSealed s
     | some c =>
       if s.cfg.txMax - s.txcnt < frameLength s.len then raise .txFull s
       else respond .ok (countWord (frameLength s.len)) (enqueueTx (frameBytes c.code s.pay c.crc) s))

/-- TX.POP: TxEmpty, else the head byte is taken off, (OK, the byte zero-extended) (R112). -/
def execTxPop (s : State) : Host.Outcome State Fault Refusal :=
  .next
    (match s.txq with
     | [] => raise .txEmpty s
     | b :: _ => respond .ok (zext32 b) (dequeueTx 1 s))

/-- TX.CNT: (OK, TXCNT) (R113). -/
def execTxCnt (s : State) : Host.Outcome State Fault Refusal :=
  .next (respond .ok (countWord s.txcnt) s)

/-- TX.FLUSH: TXQ <- empty, (OK, 0) (R114). -/
def execTxFlush (s : State) : Host.Outcome State Fault Refusal :=
  .next (respond .ok 0#32 (dequeueTx s.txcnt s))

end Sys2Proof.Machine
end

