-- ==== Sys2Proof/Machine/Slot.lean ====
section
/-! DEFINITION. The chunk slot commands (spec/41_chunk_slot.md R91 to R98). -/

namespace Sys2Proof.Machine

/-- CH.CLR: LEN <- 0, SEALED <- 0, (OK, 0), in every state (R91). -/
def execChClr (s : State) : Host.Outcome State Fault Refusal :=
  .next (respond .ok 0#32 (clearSlot s))

/-- CH.PUSH imm8: Sealed, then PayloadFull, then the byte is staged, (OK, 0) (R92). -/
def execChPush (imm8 : Byte) (s : State) : Host.Outcome State Fault Refusal :=
  .next
    (if s.isSealed then raise .sealed s
     else if s.len = s.cfg.payloadMax then raise .payloadFull s
     else respond .ok 0#32 (stageByte imm8 s))

/-- CH.NEW imm32: TYPE, CRC and SEALED written over the staged payload, (OK, CRC); no check (R93). -/
def execChNew (imm32 : Word) (s : State) : Host.Outcome State Fault Refusal :=
  let t := TypeCode.ofWord imm32
  let c := chunkCrc t s.pay
  .next (respond .ok c (sealSlot t c s))

/-- CH.STAT: (OK, SEALED in bit 0) (R94). -/
def execChStat (s : State) : Host.Outcome State Fault Refusal :=
  .next (respond .ok (statWord s.isSealed) s)

/-- CH.RDLEN: (OK, LEN), sealed or not (R95). -/
def execChRdlen (s : State) : Host.Outcome State Fault Refusal :=
  .next (respond .ok (countWord s.len) s)

/-- CH.RDTYPE: NotSealed, else (OK, the type code packed big-endian) (R96). -/
def execChRdtype (s : State) : Host.Outcome State Fault Refusal :=
  .next
    (match s.chunk with
     | none => raise .notSealed s
     | some c => respond .ok c.code.toWord s)

/-- CH.RDCRC: NotSealed, else (OK, the stored CRC register) (R97). -/
def execChRdcrc (s : State) : Host.Outcome State Fault Refusal :=
  .next
    (match s.chunk with
     | none => raise .notSealed s
     | some c => respond .ok c.crc s)

/-- CH.RDPAY imm32: IndexRange when the unsigned index is ≥ LEN, else (OK, PAY[index] zero-extended)
(R98). -/
def execChRdpay (imm32 : Word) (s : State) : Host.Outcome State Fault Refusal :=
  .next
    (match memRead s imm32.toNat with
     | none => raise .indexRange s
     | some b => respond .ok (zext32 b) s)

end Sys2Proof.Machine
end

