-- ==== Sys2Proof/Machine/System.lean ====
section
/-! DEFINITION. The system commands SYS.NOP and SYS.RST (spec/45_system.md R140, R141). -/

namespace Sys2Proof.Machine

/-- SYS.NOP: nothing written, (OK, 0) (R140). -/
def execSysNop (s : State) : Host.Outcome State Fault Refusal :=
  .next (respond .ok 0#32 s)

/-- SYS.RST: every item of R20 takes its reset value, (OK, 0) (R141). -/
def execSysRst (s : State) : Host.Outcome State Fault Refusal :=
  .next (respond .ok 0#32 (resetBlock s))

end Sys2Proof.Machine
end

