-- ==== Sys2Proof/Machine/TypeQuery.lean ====
section
/-! DEFINITION. The type-code flag query (spec/44_type_flags.md R131, R132). -/

namespace Sys2Proof.Machine

/-- TYP.FLAGS imm32: the flag bits of the operand, (OK, flags); no state read or written (R131). -/
def execTypFlags (imm32 : Word) (s : State) : Host.Outcome State Fault Refusal :=
  .next (respond .ok (typeFlags (TypeCode.ofWord imm32)) s)

end Sys2Proof.Machine
end

