-- ==== Sys2Proof/Machine/Dispatch.lean ====
section
/-! DEFINITION. The meaning of every command, one arm per constructor of Instr (spec/30_encoding.md R65). -/

namespace Sys2Proof.Machine

def exec (i : Instr) (s : State) : Host.Outcome State Fault Refusal :=
  match i with
  | .sysNop => Sys2Proof.Machine.execSysNop s
  | .sysRst => Sys2Proof.Machine.execSysRst s
  | .crcInit => Sys2Proof.Machine.execCrcInit s
  | .crcUpd imm8 => Sys2Proof.Machine.execCrcUpd imm8 s
  | .crcRd => Sys2Proof.Machine.execCrcRd s
  | .chClr => Sys2Proof.Machine.execChClr s
  | .chPush imm8 => Sys2Proof.Machine.execChPush imm8 s
  | .chNew imm32 => Sys2Proof.Machine.execChNew imm32 s
  | .chStat => Sys2Proof.Machine.execChStat s
  | .chRdlen => Sys2Proof.Machine.execChRdlen s
  | .chRdtype => Sys2Proof.Machine.execChRdtype s
  | .chRdcrc => Sys2Proof.Machine.execChRdcrc s
  | .chRdpay imm32 => Sys2Proof.Machine.execChRdpay imm32 s
  | .serEmit => Sys2Proof.Machine.execSerEmit s
  | .txPop => Sys2Proof.Machine.execTxPop s
  | .txCnt => Sys2Proof.Machine.execTxCnt s
  | .txFlush => Sys2Proof.Machine.execTxFlush s
  | .rxPush imm8 => Sys2Proof.Machine.execRxPush imm8 s
  | .rxCnt => Sys2Proof.Machine.execRxCnt s
  | .rxFlush => Sys2Proof.Machine.execRxFlush s
  | .desParse => Sys2Proof.Machine.execDesParse s
  | .typFlags imm32 => Sys2Proof.Machine.execTypFlags imm32 s

end Sys2Proof.Machine
end

