-- ==== Sys2Proof/Machine/Step.lean ====
section
/-! DEFINITION. One step of the machine: the next thing the host does to the block (spec/00_scope.md R12,
spec/60_exceptions.md R165). -/

namespace Sys2Proof.Machine

/-- One step. The host issues a command word, which is performed atomically (R2) or, where it is illegal,
answered IllegalCommand before anything else is looked at (R66, R67); or the host asserts reset (R170); or
it is silent, and the block stays in its state (R165). -/
def step (s : State) : Host.Outcome State Fault Refusal :=
  match nextMove s with
  | none => .next (idle s)
  | some (.reset, s') => .next (hardwareReset s')
  | some (.issue cw, s') =>
    match decode cw with
    | .ok i => exec i s'
    | .error why => .next (illegalWord why s')

/-- `s` with the command word that the low `nbits` bits of `w` spell presented first, so that the very next
step runs it (log 6). -/
def State.withFetchWord (s : State) (nbits w : Nat) : State :=
  presentFirst (BitVec.ofNat 40 (w % 2 ^ nbits)) s

end Sys2Proof.Machine
end

