-- ==== Sys2Proof/Machine/Listing.lean ====
section
/-! DEFINITION. The listing syntax and the pseudo-commands (spec/30_encoding.md R75, R76): how a line of
text names a command word or a sequence of commands, and how the host runs a pseudo-command. Lexical
details R75 leaves open are log 10. -/

namespace Sys2Proof.Machine

/-- The pseudo-commands (R76). -/
inductive Pseudo where
  /-- `CH.PUSHS "text"`. -/
  | chPushS (text : List Byte)
  /-- `CH.PUSHB b0 b1 …`. -/
  | chPushB (bytes : List Byte)
  /-- `RX.PUSHB b0 b1 …`. -/
  | rxPushB (bytes : List Byte)
  /-- `CRC.UPDS "text"`. -/
  | crcUpdS (text : List Byte)
  /-- `TX.POPN n`. -/
  | txPopN (n : Nat)
  deriving DecidableEq, Repr

/-- The sequence of real commands a pseudo-command abbreviates (R76). -/
def Pseudo.expand : Pseudo → List Instr
  | .chPushS text => text.map .chPush
  | .chPushB bytes => bytes.map .chPush
  | .rxPushB bytes => bytes.map .rxPush
  | .crcUpdS text => text.map .crcUpd
  | .txPopN n => List.replicate n .txPop

/-- Whether the response delivered last is OK. -/
def lastOk (s : State) : Bool :=
  match s.responses.getLast? with
  | none => true
  | some r => r.status == .ok

/-- Real commands issued in order, up to and including the first that returns an error; the ones before
it have taken effect (R76). -/
def runUntilError : List Instr → State → Host.Outcome State Fault Refusal
  | [], s => .next s
  | i :: is, s =>
    match exec i s with
    | .next t => if lastOk t then runUntilError is t else .next t
    | .fault r => .fault r
    | .refused r => .refused r

/-- The host runs a pseudo-command (R76). -/
def runPseudo (p : Pseudo) (s : State) : Host.Outcome State Fault Refusal := runUntilError p.expand s

/-- An operand of a listing line (R75). -/
inductive ListingOperand where
  /-- A hexadecimal number `0x…` or a decimal number. -/
  | number (n : Nat)
  /-- A single character in single quotes. -/
  | char (c : Char)
  /-- Characters in double quotes. -/
  | text (cs : List Char)
  deriving DecidableEq, Repr

/-- What a command's operand may be written as (R75). -/
inductive OperandKind where
  /-- No operand (format N). -/
  | none
  /-- A B-format byte: a number or a single character. -/
  | byte
  /-- A type code: a number or four characters. -/
  | typeCode
  /-- A W-format index: a number. -/
  | index
  deriving DecidableEq, Repr

/-- The mnemonics, opcodes and operand kinds (R65, R75). -/
def listingTable : List (String × Byte × OperandKind) :=
  [("SYS.NOP", 0x00#8, .none), ("SYS.RST", 0x01#8, .none)] ++
  [("CRC.INIT", 0x10#8, .none), ("CRC.UPD", 0x11#8, .byte), ("CRC.RD", 0x12#8, .none)] ++
  [("CH.CLR", 0x20#8, .none), ("CH.PUSH", 0x21#8, .byte), ("CH.NEW", 0x22#8, .typeCode)] ++
  [("CH.STAT", 0x23#8, .none), ("CH.RDLEN", 0x24#8, .none), ("CH.RDTYPE", 0x25#8, .none)] ++
  [("CH.RDCRC", 0x26#8, .none), ("CH.RDPAY", 0x27#8, .index)] ++
  [("SER.EMIT", 0x30#8, .none), ("TX.POP", 0x31#8, .none), ("TX.CNT", 0x32#8, .none), ("TX.FLUSH", 0x33#8, .none)] ++
  [("RX.PUSH", 0x40#8, .byte), ("RX.CNT", 0x41#8, .none), ("RX.FLUSH", 0x42#8, .none), ("DES.PARSE", 0x43#8, .none)] ++
  [("TYP.FLAGS", 0x50#8, .typeCode)]

/-- "Characters are ASCII" (R75). -/
def asciiByte (c : Char) : Option Byte :=
  if c.toNat < 128 then some (BitVec.ofNat 8 c.toNat) else none

/-- The bytes of an ASCII text, in order (R76). -/
def asciiBytes : List Char → Option (List Byte)
  | [] => some []
  | c :: cs =>
    match asciiByte c, asciiBytes cs with
    | some b, some bs => some (b :: bs)
    | _, _ => none

/-- A number as a 32-bit operand, where it fits. -/
def numberWord (n : Nat) : Option Word := if n < 2 ^ 32 then some (BitVec.ofNat 32 n) else none

/-- Four characters packed by R64. -/
def packText (cs : List Char) : Option Word :=
  match asciiBytes cs with
  | some [b0, b1, b2, b3] => some (unbe32 b0 b1 b2 b3)
  | _ => none

/-- The operand field a listing writes. A number too large for a byte still gives a command word, an
illegal one, as `CRC.UPD 0x100` does in spec/95_test_vectors.md V5. -/
def listingArg : OperandKind → List ListingOperand → Option Word
  | .none, [] => some 0
  | .byte, [.number n] => numberWord n
  | .byte, [.char c] => (asciiByte c).map zext32
  | .typeCode, [.number n] => numberWord n
  | .typeCode, [.text cs] => packText cs
  | .index, [.number n] => numberWord n
  | _, _ => none

/-- A byte operand of a pseudo-command. -/
def listingByte : ListingOperand → Option Byte
  | .number n => if n < 256 then some (BitVec.ofNat 8 n) else none
  | .char c => asciiByte c
  | .text _ => none

/-- The byte operands of a pseudo-command, in order. -/
def listingBytes : List ListingOperand → Option (List Byte)
  | [] => some []
  | o :: os =>
    match listingByte o, listingBytes os with
    | some b, some bs => some (b :: bs)
    | _, _ => none

/-- The text operand of a pseudo-command. -/
def listingText : List ListingOperand → Option (List Byte)
  | [.text cs] => asciiBytes cs
  | _ => none

/-- The pseudo-command a mnemonic and its operands name (R76). -/
def pseudoOf (name : List Char) (ops : List ListingOperand) : Option Pseudo :=
  if name = "CH.PUSHS".toList then (listingText ops).map .chPushS
  else if name = "CH.PUSHB".toList then (listingBytes ops).map .chPushB
  else if name = "RX.PUSHB".toList then (listingBytes ops).map .rxPushB
  else if name = "CRC.UPDS".toList then (listingText ops).map .crcUpdS
  else if name = "TX.POPN".toList then
    match ops with
    | [.number n] => some (.txPopN n)
    | _ => none
  else none

/-- What a listing line stands for. -/
inductive ListingLine where
  | command (cw : CommandWord)
  | pseudo (p : Pseudo)
  deriving DecidableEq, Repr

/-- The line a mnemonic and its operands write (R75, R76). -/
def assemble (name : List Char) (ops : List ListingOperand) : Option ListingLine :=
  match listingTable.find? (fun r => r.1.toList == name) with
  | some (_, op, kind) => (listingArg kind ops).map fun arg => .command (commandWord op arg)
  | none => (pseudoOf name ops).map .pseudo

/-- The value of a digit in the given base (10 or 16). -/
def digitValue (base : Nat) (c : Char) : Option Nat :=
  let v :=
    if '0' ≤ c ∧ c ≤ '9' then c.toNat - '0'.toNat
    else if 'a' ≤ c ∧ c ≤ 'f' then c.toNat - 'a'.toNat + 10
    else if 'A' ≤ c ∧ c ≤ 'F' then c.toNat - 'A'.toNat + 10
    else base
  if v < base then some v else none

/-- A non-empty digit string, most significant digit first, after `acc`. -/
def digitsValue (base : Nat) : Nat → List Char → Option Nat
  | _, [] => none
  | acc, [c] => (digitValue base c).map fun d => acc * base + d
  | acc, c :: cs =>
    match digitValue base c with
    | some d => digitsValue base (acc * base + d) cs
    | none => none

/-- A hexadecimal number `0x…` or a decimal number (R75). -/
def numberOf : List Char → Option Nat
  | '0' :: 'x' :: cs => digitsValue 16 0 cs
  | cs => digitsValue 10 0 cs

/-- The characters up to the first one satisfying `stop`, and the rest from it on. -/
def splitAtFirst (stop : Char → Bool) : List Char → List Char × List Char
  | [] => ([], [])
  | c :: cs => if stop c then ([], c :: cs) else (c :: (splitAtFirst stop cs).1, (splitAtFirst stop cs).2)

/-- One operand at the head of the text, and the text after it. -/
def lexOperand : List Char → Option (ListingOperand × List Char)
  | '\'' :: c :: '\'' :: rest => some (.char c, rest)
  | '"' :: cs =>
    match splitAtFirst (· == '"') cs with
    | (body, '"' :: rest) => some (.text body, rest)
    | _ => none
  | cs => (numberOf (splitAtFirst (· == ' ') cs).1).map fun n => (.number n, (splitAtFirst (· == ' ') cs).2)

/-- The operands after a mnemonic, separated by spaces, up to the end of the line or `->` (after which a
listing shows the response, R75). The first argument bounds the number of characters looked at. -/
def lexOperands : Nat → List Char → Option (List ListingOperand)
  | 0, _ => none
  | _ + 1, [] => some []
  | _ + 1, '-' :: '>' :: _ => some []
  | fuel + 1, ' ' :: cs => lexOperands fuel cs
  | fuel + 1, cs =>
    match lexOperand cs with
    | none => none
    | some (o, rest) => (lexOperands fuel rest).map fun os => o :: os

/-- A line of a listing: `MNEMONIC` or `MNEMONIC operand …` (R75, R76). -/
def readLine (line : String) : Option ListingLine :=
  match splitAtFirst (· == ' ') line.toList with
  | (name, rest) =>
    match lexOperands (rest.length + 1) rest with
    | none => none
    | some ops => assemble name ops

end Sys2Proof.Machine
end

