-- ==== Sys2Proof/Safety.lean ====
section
/-! DEFINITION. What counts as a good state and a safe run, in the terms the statements use. -/

namespace Sys2Proof.Machine

/-- The three cases in which a command word is illegal (spec/30_encoding.md R66): its opcode is unassigned;
or assigned with format N and arg ≠ 0; or assigned with format B and arg[31:8] ≠ 0. -/
def IllegalByRule (cw : CommandWord) : Prop :=
  (∀ r ∈ opcodeTable, r.pattern.extractLsb' 32 8 ≠ cw.extractLsb' 32 8) ∨
  (∃ r ∈ opcodeTable, r.pattern.extractLsb' 32 8 = cw.extractLsb' 32 8 ∧ r.format = .N ∧
    cw.extractLsb' 0 32 ≠ 0#32) ∨
  (∃ r ∈ opcodeTable, r.pattern.extractLsb' 32 8 = cw.extractLsb' 32 8 ∧ r.format = .B ∧
    cw.extractLsb' 8 24 ≠ 0#24)

/-- The slot invariant (spec/10_state.md R29): SEALED = 1 implies CRC = crc32(TYPE ++ PAY[0..LEN)). -/
def slotOk (s : State) : Prop :=
  ∀ c, s.chunk = some c → c.crc = crc32 ([c.code.b0, c.code.b1, c.code.b2, c.code.b3] ++ s.pay)

/-- The invariant of the block: the parameters lie in their ranges (R5), the byte stores within their
capacities (R30), and the slot invariant holds (R29). -/
structure State.Inv (s : State) : Prop where
  config : s.cfg.wf = true
  memory : Memory.wf s
  slot : slotOk s

/-- A run is safe when the machine never stops with a fault or a refusal, however many steps it makes
(spec/60_exceptions.md R150: "the core never panics/aborts"). -/
def SafeRun (s : State) : Prop := ∀ k, ∃ t, Host.Core.run Sys2Proof.core k s = .next t

/-- Commands performed one after another, each seeing the state left by the one before it
(spec/20_memory.md R50). -/
def runInstrs : List Instr → State → Host.Outcome State Fault Refusal
  | [], s => .next s
  | i :: is, s =>
    match exec i s with
    | .next t => runInstrs is t
    | .fault r => .fault r
    | .refused r => .refused r

/-- The statuses a legal command can answer (spec/30_encoding.md R65, column "errors it can return", less
IllegalCommand, which only an illegal word gets). -/
def statusesOf : Instr → List Status
  | .chPush _ => [.ok, .sealed, .payloadFull]
  | .chRdtype => [.ok, .notSealed]
  | .chRdcrc => [.ok, .notSealed]
  | .chRdpay _ => [.ok, .indexRange]
  | .serEmit => [.ok, .notSealed, .txFull]
  | .txPop => [.ok, .txEmpty]
  | .rxPush _ => [.ok, .rxFull]
  | .desParse => [.ok, .truncatedInput, .payloadFull, .crcMismatch]
  | .sysNop => [.ok]
  | .sysRst => [.ok]
  | .crcInit => [.ok]
  | .crcUpd _ => [.ok]
  | .crcRd => [.ok]
  | .chClr => [.ok]
  | .chNew _ => [.ok]
  | .chStat => [.ok]
  | .chRdlen => [.ok]
  | .txCnt => [.ok]
  | .txFlush => [.ok]
  | .rxCnt => [.ok]
  | .rxFlush => [.ok]
  | .typFlags _ => [.ok]

end Sys2Proof.Machine
end

