-- ==== Sys2Proof/Certificates/Slice0/Obligations.lean ====
section
/-! DEFINITION. The statements about the block, from the spec's numbered rules. Where a statement gives
a next state as `{ s with … }`, every field it does not name is unchanged: that is the frame. -/

open Sys2Proof Sys2Proof.Machine

/-! ### Encoding -/

/-- R60, R63 to R65: decoding the word of a command gives the command back, with every operand. -/
def Obligations.DecodeEncodeRoundTrip : Prop :=
  ∀ i : Instr, decode (encode i) = .ok i

/-- R60, R63, R65: a word is accepted exactly when it matches a row of the table, then it matches exactly
one, of the format of the decoded command, and it is that command's own word. -/
def Obligations.LegalWordsAreExactlyTableRows : Prop :=
  ∀ cw : CommandWord,
    (wellFormedWord cw = true ↔ ∃ i, decode cw = .ok i) ∧
    ∀ i, decode cw = .ok i →
      encode i = cw ∧
      ∃ r, opcodeTable.filter (fun r => r.matchesWord cw) = [r] ∧ r.format = i.format

/-- R66, R67: a word that is illegal by R66's three cases does not decode and is answered
(IllegalCommand, 0) with no state change, in every state; every other word is a command. The port and the
list of responses are how the model holds the host's side (log 1, log 2). -/
def Obligations.IllegalWordsAnswerIllegalCommand : Prop :=
  ∀ cw : CommandWord,
    (¬ IllegalByRule cw → ∃ i, decode cw = .ok i) ∧
    (IllegalByRule cw → (∀ i, decode cw ≠ .ok i) ∧
      ∀ (s : State) (rest : List HostMove), s.port = .issue cw :: rest →
        step s = .next { s with port := rest, responses := s.responses ++ [⟨.illegalCommand, 0#32⟩] })

/-- R65: words written out from the opcode map, at least one of every unit, decode to their commands, and
words of unassigned opcodes or with reserved bits set do not decode. -/
def Obligations.WordsOfEveryUnitDecode : Prop :=
  decode 0x0000000000#40 = .ok .sysNop ∧ decode 0x0100000000#40 = .ok .sysRst ∧
  decode 0x1100000031#40 = .ok (.crcUpd 0x31#8) ∧ decode 0x2252755374#40 = .ok (.chNew 0x52755374#32) ∧
  decode 0x2700000029#40 = .ok (.chRdpay 41#32) ∧ decode 0x3000000000#40 = .ok .serEmit ∧
  decode 0x400000004E#40 = .ok (.rxPush 0x4E#8) ∧ decode 0x4300000000#40 = .ok .desParse ∧
  decode 0x5052755374#40 = .ok (.typFlags 0x52755374#32) ∧
  decode 0x1300000000#40 = .error (.unassignedOpcode 0x13#8) ∧
  decode 0x0100000001#40 = .error (.operandNotZero 1#32) ∧
  decode 0x1100000100#40 = .error (.reservedBitsNotZero 0x100#32)

/-- R62, R151: the fields of a response word and the eleven status codes, no two alike. -/
def Obligations.ResponseWordCarriesStatusAndValue : Prop :=
  (∀ r : Response, r.word.extractLsb' 32 8 = r.status.code ∧ r.word.extractLsb' 0 32 = r.value) ∧
  Status.ok.code = 0x00#8 ∧ Status.truncatedInput.code = 0x01#8 ∧ Status.crcMismatch.code = 0x02#8 ∧
  Status.illegalCommand.code = 0x10#8 ∧ Status.notSealed.code = 0x11#8 ∧ Status.sealed.code = 0x12#8 ∧
  Status.indexRange.code = 0x13#8 ∧ Status.payloadFull.code = 0x14#8 ∧ Status.rxFull.code = 0x15#8 ∧
  Status.txFull.code = 0x16#8 ∧ Status.txEmpty.code = 0x17#8 ∧
  ∀ a b : Status, a.code = b.code → a = b

/-- R10, R43 to R45: big-endian fields. be32 gives the four bytes most significant first, unbe32 is the
weighted sum, each undoes the other, and a type code packs the same way. -/
def Obligations.FieldsAreBigEndian : Prop :=
  (∀ v : Word, be32 v = [v.extractLsb' 24 8, v.extractLsb' 16 8, v.extractLsb' 8 8, v.extractLsb' 0 8] ∧
    unbe32 (v.extractLsb' 24 8) (v.extractLsb' 16 8) (v.extractLsb' 8 8) (v.extractLsb' 0 8) = v ∧
    (TypeCode.ofWord v).bytes = be32 v ∧ (TypeCode.ofWord v).toWord = v) ∧
  ∀ b0 b1 b2 b3 : Byte,
    (unbe32 b0 b1 b2 b3).toNat = b0.toNat * 2 ^ 24 + b1.toNat * 2 ^ 16 + b2.toNat * 2 ^ 8 + b3.toNat ∧
    be32 (unbe32 b0 b1 b2 b3) = [b0, b1, b2, b3]

/-! ### System commands and the CRC generator -/

/-- R140, R141: SYS.NOP does nothing; SYS.RST puts every item of the block at its reset value, as the
hardware reset does but with a response; a CRC.RD issued next returns 0. -/
def Obligations.NopAndResetCommands : Prop :=
  encode .sysNop = 0x0000000000#40 ∧ encode .sysRst = 0x0100000000#40 ∧
  ∀ s : State,
    exec .sysNop s = .next { s with responses := s.responses ++ [⟨.ok, 0#32⟩] } ∧
    exec .sysRst s = .next
      { s with crcacc := 0xFFFFFFFF#32, pay := [], chunk := none, rxq := [], txq := [],
               responses := s.responses ++ [⟨.ok, 0#32⟩] } ∧
    runInstrs [.sysRst, .crcRd] s = .next
      { s with crcacc := 0xFFFFFFFF#32, pay := [], chunk := none, rxq := [], txq := [],
               responses := s.responses ++ [⟨.ok, 0#32⟩, ⟨.ok, 0#32⟩] } ∧
    ∀ (u : State) (rest : List HostMove), s.port = .reset :: rest → step s = .next u →
      exec .sysRst { s with port := rest } = .next { u with responses := u.responses ++ [⟨.ok, 0#32⟩] }

/-- R84, R85: CRC.INIT and CRC.UPD write CRCACC and nothing else of the block. -/
def Obligations.CrcInitAndUpdate : Prop :=
  encode .crcInit = 0x1000000000#40 ∧ (∀ b : Byte, encode (.crcUpd b) = 0x11#8 ++ b.setWidth 32) ∧
  ∀ s : State,
    exec .crcInit s = .next
      { s with crcacc := 0xFFFFFFFF#32, responses := s.responses ++ [⟨.ok, 0#32⟩] } ∧
    ∀ b : Byte, exec (.crcUpd b) s = .next
      { s with crcacc := crcStep s.crcacc b, responses := s.responses ++ [⟨.ok, 0#32⟩] }

/-- R86: CRC.RD returns CRCACC xor 0xFFFFFFFF and changes nothing; after CRC.INIT and CRC.UPD of the bytes
`bs` in order it returns crc32(bs), and the accumulation can go on from the unfinalised register. -/
def Obligations.CrcReadReturnsChecksum : Prop :=
  encode .crcRd = 0x1200000000#40 ∧
  ∀ s : State,
    exec .crcRd s = .next { s with responses := s.responses ++ [⟨.ok, s.crcacc ^^^ 0xFFFFFFFF#32⟩] } ∧
    ∀ bs : List Byte,
      runInstrs (.crcInit :: bs.map .crcUpd ++ [.crcRd]) s = .next
        { s with crcacc := crcRaw bs,
                 responses := s.responses ++ List.replicate (bs.length + 1) ⟨.ok, 0#32⟩ ++ [⟨.ok, crc32 bs⟩] }

/-- R80 to R82: crc_step is eight conditional shifts of c xor b, crc_raw folds it over the bytes from
0xFFFFFFFF, crc32 inverts the result. The initial value, the final XOR and the bit order are the general
knowledge the spec marks in R80 to R82 (log 9). -/
def Obligations.ChecksumFollowsItsAlgorithm : Prop :=
  (∀ (c : Word) (b : Byte), ∃ r : Nat → Word,
    r 0 = c ^^^ b.setWidth 32 ∧
    (∀ i, r (i + 1) = if (r i).getLsbD 0 then (r i >>> 1) ^^^ 0xEDB88320#32 else r i >>> 1) ∧
    crcStep c b = r 8) ∧
  crcRaw [] = 0xFFFFFFFF#32 ∧
  (∀ (s : List Byte) (b : Byte), crcRaw (s ++ [b]) = crcStep (crcRaw s) b) ∧
  ∀ s : List Byte, crc32 s = crcRaw s ^^^ 0xFFFFFFFF#32

/-- R77: the table form with its listed entries, the incremental form, linearity. -/
def Obligations.ChecksumEquivalentForms : Prop :=
  (∀ (c : Word) (b : Byte),
    crcStep c b = (c >>> 8) ^^^ crcStep 0#32 ((c ^^^ b.setWidth 32).extractLsb' 0 8)) ∧
  crcStep 0#32 0x00#8 = 0x00000000#32 ∧ crcStep 0#32 0x01#8 = 0x77073096#32 ∧
  crcStep 0#32 0x02#8 = 0xEE0E612C#32 ∧ crcStep 0#32 0x80#8 = 0xEDB88320#32 ∧
  crcStep 0#32 0xFF#8 = 0x2D02EF8D#32 ∧
  (∀ s t : List Byte, crcRaw (s ++ t) = t.foldl crcStep (crcRaw s)) ∧
  (∀ (c d : Word) (b e : Byte),
    crcStep (c ^^^ d) (b ^^^ e) = crcStep c b ^^^ crcStep d e ^^^ crcStep 0#32 0#8) ∧
  crcStep 0#32 0#8 = 0#32

/-- R89: any byte sequence followed by its CRC least significant byte first leaves the constant residue (the
spec derives it from R80 to R82, log 9). -/
def Obligations.ChecksumResidueIsConstant : Prop :=
  ∀ s : List Byte, crcRaw (s ++ (be32 (crc32 s)).reverse) = 0xDEBB20E3#32

/-- R88: flipping any single bit of any byte sequence changes its CRC-32. The general claim is the spec's own
inference; it rests on R80 to R82 (log 9). -/
def Obligations.SingleBitFlipChangesChecksum : Prop :=
  ∀ (bs : List Byte) (i k : Nat), i < bs.length → k < 8 →
    crc32 (bs.modify i (· ^^^ (1#8 <<< k))) ≠ crc32 bs

/-! ### The chunk slot -/

/-- R91: CH.CLR empties and unseals the slot in every state and touches nothing else. -/
def Obligations.ClearEmptiesSlot : Prop :=
  encode .chClr = 0x2000000000#40 ∧
  ∀ s : State, exec .chClr s = .next
    { s with pay := [], chunk := none, responses := s.responses ++ [⟨.ok, 0#32⟩] }

/-- R92: CH.PUSH answers Sealed on a sealed slot, full or not; PayloadFull on a full unsealed one; else it
writes the byte at the old LEN, leaves the bytes below alone and adds one to LEN. -/
def Obligations.PushStagesPayloadByte : Prop :=
  (∀ b : Byte, encode (.chPush b) = 0x21#8 ++ b.setWidth 32) ∧
  ∀ (s : State) (b : Byte),
    (∀ c, s.chunk = some c → exec (.chPush b) s = .next
      { s with responses := s.responses ++ [⟨.sealed, 0#32⟩] }) ∧
    (s.chunk = none → s.pay.length = s.cfg.payloadMax → exec (.chPush b) s = .next
      { s with responses := s.responses ++ [⟨.payloadFull, 0#32⟩] }) ∧
    (s.chunk = none → s.pay.length ≠ s.cfg.payloadMax → ∃ p : List Byte,
      exec (.chPush b) s = .next { s with pay := p, responses := s.responses ++ [⟨.ok, 0#32⟩] } ∧
      p.length = s.pay.length + 1 ∧ p[s.pay.length]? = some b ∧
      ∀ j, j < s.pay.length → p[j]? = s.pay[j]?)

/-- R93: CH.NEW never fails; it writes TYPE from the operand's bytes, most significant first, CRC from TYPE
and the staged payload, and SEALED; it returns the CRC and changes nothing else. -/
def Obligations.NewSealsStagedPayload : Prop :=
  (∀ w : Word, encode (.chNew w) = 0x22#8 ++ w) ∧
  ∀ (s : State) (w : Word), ∃ c : Chunk,
    exec (.chNew w) s = .next
      { s with chunk := some c, responses := s.responses ++ [⟨.ok, c.crc⟩] } ∧
    c.code.b0 = w.extractLsb' 24 8 ∧ c.code.b1 = w.extractLsb' 16 8 ∧
    c.code.b2 = w.extractLsb' 8 8 ∧ c.code.b3 = w.extractLsb' 0 8 ∧
    c.crc = crc32 ([c.code.b0, c.code.b1, c.code.b2, c.code.b3] ++ s.pay)

/-- R94, R95: CH.STAT returns SEALED in bit 0 and zeros; CH.RDLEN returns LEN, sealed or not. -/
def Obligations.SlotStatusAndLength : Prop :=
  encode .chStat = 0x2300000000#40 ∧ encode .chRdlen = 0x2400000000#40 ∧
  ∀ s : State,
    (∃ v : Word, exec .chStat s = .next { s with responses := s.responses ++ [⟨.ok, v⟩] } ∧
      v.getLsbD 0 = s.chunk.isSome ∧ ∀ j, 1 ≤ j → v.getLsbD j = false) ∧
    exec .chRdlen s = .next
      { s with responses := s.responses ++ [⟨.ok, BitVec.ofNat 32 s.pay.length⟩] }

/-- R96, R97: CH.RDTYPE and CH.RDCRC answer NotSealed on an unsealed slot; else the type code packed
big-endian, and the stored CRC, which agrees with a recomputation in every good state. -/
def Obligations.ReadTypeAndCrc : Prop :=
  encode .chRdtype = 0x2500000000#40 ∧ encode .chRdcrc = 0x2600000000#40 ∧
  ∀ s : State,
    (s.chunk = none →
      exec .chRdtype s = .next { s with responses := s.responses ++ [⟨.notSealed, 0#32⟩] } ∧
      exec .chRdcrc s = .next { s with responses := s.responses ++ [⟨.notSealed, 0#32⟩] }) ∧
    ∀ c, s.chunk = some c →
      (∃ v : Word, exec .chRdtype s = .next { s with responses := s.responses ++ [⟨.ok, v⟩] } ∧
        v.extractLsb' 24 8 = c.code.b0 ∧ v.extractLsb' 16 8 = c.code.b1 ∧
        v.extractLsb' 8 8 = c.code.b2 ∧ v.extractLsb' 0 8 = c.code.b3) ∧
      exec .chRdcrc s = .next { s with responses := s.responses ++ [⟨.ok, c.crc⟩] } ∧
      (s.Inv → c.crc = crc32 ([c.code.b0, c.code.b1, c.code.b2, c.code.b3] ++ s.pay))

/-- R98: CH.RDPAY answers IndexRange for an unsigned index ≥ LEN, else the payload byte zero-extended,
sealed or not. -/
def Obligations.ReadPayloadByte : Prop :=
  (∀ w : Word, encode (.chRdpay w) = 0x27#8 ++ w) ∧
  ∀ (s : State) (w : Word),
    (s.pay.length ≤ w.toNat →
      exec (.chRdpay w) s = .next { s with responses := s.responses ++ [⟨.indexRange, 0#32⟩] }) ∧
    ∀ b : Byte, s.pay[w.toNat]? = some b →
      exec (.chRdpay w) s = .next { s with responses := s.responses ++ [⟨.ok, b.setWidth 32⟩] }

/-- R90, R93, R96: the source's constructor in two stages. CH.CLR, one CH.PUSH per byte, CH.NEW: the slot
holds exactly the chunk of those bytes and that type, whatever it held before. -/
def Obligations.BuildChunkFromBytes : Prop :=
  ∀ (s : State) (bs : List Byte) (w : Word), bs.length ≤ s.cfg.payloadMax →
    runInstrs (.chClr :: bs.map .chPush ++ [.chNew w, .chRdtype]) s = .next
      { s with
        pay := bs
        chunk := some ⟨TypeCode.ofWord w, crc32 (be32 w ++ bs)⟩
        responses := s.responses ++ List.replicate (bs.length + 1) ⟨.ok, 0#32⟩ ++
          [⟨.ok, crc32 (be32 w ++ bs)⟩, ⟨.ok, w⟩] }

/-- R99: two sealed slots of good states that agree in type and payload hold the same chunk. -/
def Obligations.TypeAndPayloadDetermineChunk : Prop :=
  ∀ (s u : State) (c d : Chunk), s.Inv → u.Inv → s.chunk = some c → u.chunk = some d →
    c.code = d.code → s.pay = u.pay → c = d

/-! ### Serializer and transmit queue -/

/-- R111: SER.EMIT answers NotSealed, then TxFull when fewer than 12 + LEN bytes are free in unbounded
integers; else it appends the whole frame to TXQ, returns 12 + LEN, and leaves the slot alone. -/
def Obligations.EmitAppendsFrame : Prop :=
  encode .serEmit = 0x3000000000#40 ∧
  ∀ s : State,
    (s.chunk = none →
      exec .serEmit s = .next { s with responses := s.responses ++ [⟨.notSealed, 0#32⟩] }) ∧
    ∀ c, s.chunk = some c →
      ((s.cfg.txMax : Int) - s.txq.length < 12 + s.pay.length →
        exec .serEmit s = .next { s with responses := s.responses ++ [⟨.txFull, 0#32⟩] }) ∧
      ((12 : Int) + s.pay.length ≤ (s.cfg.txMax : Int) - s.txq.length →
        ∃ (t : State) (v : Word), exec .serEmit s = .next t ∧
          t = { s with
                txq := s.txq ++ (be32 (BitVec.ofNat 32 s.pay.length) ++
                  [c.code.b0, c.code.b1, c.code.b2, c.code.b3] ++ s.pay ++ be32 c.crc)
                responses := s.responses ++ [⟨.ok, v⟩] } ∧
          t.txq.length = s.txq.length + (12 + s.pay.length) ∧
          (s.Inv → v.toNat = 12 + s.pay.length ∧
            c.crc = crc32 ([c.code.b0, c.code.b1, c.code.b2, c.code.b3] ++ s.pay)))

/-- R112 to R114: TX.POP answers TxEmpty or takes the head byte off and returns it; TX.CNT returns TXCNT;
TX.FLUSH empties TXQ; nothing else changes. -/
def Obligations.TransmitQueueCommands : Prop :=
  encode .txPop = 0x3100000000#40 ∧ encode .txCnt = 0x3200000000#40 ∧ encode .txFlush = 0x3300000000#40 ∧
  ∀ s : State,
    (s.txq = [] → exec .txPop s = .next { s with responses := s.responses ++ [⟨.txEmpty, 0#32⟩] }) ∧
    (∀ b q, s.txq = b :: q →
      exec .txPop s = .next { s with txq := q, responses := s.responses ++ [⟨.ok, b.setWidth 32⟩] }) ∧
    exec .txCnt s = .next { s with responses := s.responses ++ [⟨.ok, BitVec.ofNat 32 s.txq.length⟩] } ∧
    exec .txFlush s = .next { s with txq := [], responses := s.responses ++ [⟨.ok, 0#32⟩] }

/-- R112: "bytes come out in the order they went in". Popping n bytes of a queue that holds n or more
returns its first n bytes in order and leaves the rest. -/
def Obligations.PopsReturnBytesInOrder : Prop :=
  ∀ (s : State) (out rest : List Byte), s.txq = out ++ rest →
    runInstrs (List.replicate out.length .txPop) s = .next
      { s with txq := rest, responses := s.responses ++ out.map fun b => ⟨.ok, b.setWidth 32⟩ }

/-! ### Deserializer and receive queue -/

/-- R121 to R123: RX.PUSH answers RxFull on a full queue, else queues the byte; RX.CNT returns RXCNT;
RX.FLUSH empties RXQ; nothing else changes. -/
def Obligations.ReceiveQueueCommands : Prop :=
  (∀ b : Byte, encode (.rxPush b) = 0x40#8 ++ b.setWidth 32) ∧
  encode .rxCnt = 0x4100000000#40 ∧ encode .rxFlush = 0x4200000000#40 ∧
  ∀ s : State,
    (∀ b : Byte, s.rxq.length = s.cfg.rxMax →
      exec (.rxPush b) s = .next { s with responses := s.responses ++ [⟨.rxFull, 0#32⟩] }) ∧
    (∀ b : Byte, s.rxq.length ≠ s.cfg.rxMax →
      exec (.rxPush b) s = .next
        { s with rxq := s.rxq ++ [b], responses := s.responses ++ [⟨.ok, 0#32⟩] }) ∧
    exec .rxCnt s = .next { s with responses := s.responses ++ [⟨.ok, BitVec.ofNat 32 s.rxq.length⟩] } ∧
    exec .rxFlush s = .next { s with rxq := [], responses := s.responses ++ [⟨.ok, 0#32⟩] }

/-- R124: the checks of DES.PARSE in their order, with L the big-endian value of the first four bytes in
unbounded integers. On an error nothing is written; on success the slot is overwritten entirely, exactly
12 + L bytes leave the head of RXQ, and 12 + L is returned. -/
def Obligations.ParseChecksInOrder : Prop :=
  encode .desParse = 0x4300000000#40 ∧
  ∀ s : State,
    (s.rxq.length < 12 →
      exec .desParse s = .next { s with responses := s.responses ++ [⟨.truncatedInput, 0#32⟩] }) ∧
    ∀ (l0 l1 l2 l3 t0 t1 t2 t3 : Byte) (body : List Byte) (L : Nat),
      s.rxq = l0 :: l1 :: l2 :: l3 :: t0 :: t1 :: t2 :: t3 :: body → 12 ≤ s.rxq.length →
      L = l0.toNat * 2 ^ 24 + l1.toNat * 2 ^ 16 + l2.toNat * 2 ^ 8 + l3.toNat →
      (s.rxq.length < 12 + L →
        exec .desParse s = .next { s with responses := s.responses ++ [⟨.truncatedInput, 0#32⟩] }) ∧
      (12 + L ≤ s.rxq.length → s.cfg.payloadMax < L →
        exec .desParse s = .next { s with responses := s.responses ++ [⟨.payloadFull, 0#32⟩] }) ∧
      ∀ (p rest : List Byte) (c0 c1 c2 c3 : Byte),
        body = p ++ c0 :: c1 :: c2 :: c3 :: rest → p.length = L → L ≤ s.cfg.payloadMax →
        (crc32 ([t0, t1, t2, t3] ++ p) ≠ unbe32 c0 c1 c2 c3 →
          exec .desParse s = .next { s with responses := s.responses ++ [⟨.crcMismatch, 0#32⟩] }) ∧
        (crc32 ([t0, t1, t2, t3] ++ p) = unbe32 c0 c1 c2 c3 →
          exec .desParse s = .next
            { s with pay := p, chunk := some ⟨⟨t0, t1, t2, t3⟩, unbe32 c0 c1 c2 c3⟩, rxq := rest,
                     responses := s.responses ++ [⟨.ok, BitVec.ofNat 32 (12 + L)⟩] })

/-- R179, R124 corner case (b): with a declared length of 0xFFFFFFF4 or more, where 12 + L passes 2^32 − 1,
DES.PARSE answers TruncatedInput in every good state, whatever the capacities. -/
def Obligations.HugeLengthIsTruncated : Prop :=
  ∀ (s : State) (l3 : Byte) (q : List Byte), s.Inv → s.rxq = 0xFF#8 :: 0xFF#8 :: 0xFF#8 :: l3 :: q →
    0xF4 ≤ l3.toNat →
    exec .desParse s = .next { s with responses := s.responses ++ [⟨.truncatedInput, 0#32⟩] }

/-- R178: a frame whose 12 + L exceeds RX_MAX can never be completed: whatever bytes are pushed, DES.PARSE
answers TruncatedInput and the slot keeps what it held. -/
def Obligations.FrameLongerThanQueueNeverCompletes : Prop :=
  ∀ (s : State) (l0 l1 l2 l3 : Byte) (q : List Byte), s.Inv → s.rxq = l0 :: l1 :: l2 :: l3 :: q →
    s.cfg.rxMax < 12 + (l0.toNat * 2 ^ 24 + l1.toNat * 2 ^ 16 + l2.toNat * 2 ^ 8 + l3.toNat) →
    ∀ bs : List Byte, ∃ t : State,
      runInstrs (bs.map .rxPush ++ [.desParse]) s = .next t ∧
      t.responses.getLast? = some ⟨.truncatedInput, 0#32⟩ ∧ t.pay = s.pay ∧ t.chunk = s.chunk

/-- R127: a valid frame with a CRC field that is not the CRC of its type and payload fails with CrcMismatch,
whatever follows it, and nothing changes. -/
def Obligations.TamperedCrcFieldFails : Prop :=
  ∀ (s : State) (t : TypeCode) (p : List Byte) (c : Word) (rest : List Byte),
    s.rxq = be32 (BitVec.ofNat 32 p.length) ++ [t.b0, t.b1, t.b2, t.b3] ++ p ++ be32 c ++ rest →
    p.length ≤ s.cfg.payloadMax → p.length < 2 ^ 32 → c ≠ crc32 ([t.b0, t.b1, t.b2, t.b3] ++ p) →
    exec .desParse s = .next { s with responses := s.responses ++ [⟨.crcMismatch, 0#32⟩] }

/-- R88, R127: every single-bit corruption of the type code, the payload or the CRC field of a valid frame
at the head of RXQ is detected: CrcMismatch, and nothing changes. The general claim is the spec's own
inference (R88); it rests on R80 to R82 (log 9). -/
def Obligations.SingleBitCorruptionIsDetected : Prop :=
  ∀ (s : State) (t : TypeCode) (p f rest : List Byte) (i k : Nat),
    f = be32 (BitVec.ofNat 32 p.length) ++ [t.b0, t.b1, t.b2, t.b3] ++ p ++
      be32 (crc32 ([t.b0, t.b1, t.b2, t.b3] ++ p)) →
    p.length ≤ s.cfg.payloadMax → p.length < 2 ^ 32 → 4 ≤ i → i < f.length → k < 8 →
    s.rxq = f.modify i (· ^^^ (1#8 <<< k)) ++ rest →
    exec .desParse s = .next { s with responses := s.responses ++ [⟨.crcMismatch, 0#32⟩] }

/-- R115: the serializer-side round trip. In a good state with a sealed slot, an empty TXQ and room for the
frame, SER.EMIT and 12 + LEN pops return the bytes of a frame; pushing them in order into an empty RXQ of
the same block, whatever its slot then holds, DES.PARSE restores the same chunk. -/
def Obligations.SerializeThenParseRestoresChunk : Prop :=
  ∀ (s : State) (c : Chunk), s.Inv → s.chunk = some c → s.txq = [] →
    12 + s.pay.length ≤ s.cfg.txMax → 12 + s.pay.length ≤ s.cfg.rxMax →
    ∃ f : List Byte, f.length = 12 + s.pay.length ∧
      runInstrs (.serEmit :: List.replicate f.length .txPop) s = .next
        { s with responses := s.responses ++ [⟨.ok, BitVec.ofNat 32 f.length⟩] ++
                   f.map fun b => ⟨.ok, b.setWidth 32⟩ } ∧
      ∀ u : State, u.cfg = s.cfg → u.rxq = [] →
        runInstrs (f.map .rxPush ++ [.desParse]) u = .next
          { u with pay := s.pay, chunk := some c,
                   responses := u.responses ++ List.replicate f.length ⟨.ok, 0#32⟩ ++
                     [⟨.ok, BitVec.ofNat 32 f.length⟩] }

/-- R125: the deserializer-side round trip. Whenever DES.PARSE succeeds, the bytes it took from the head of
RXQ are exactly the bytes SER.EMIT then appends to TXQ, given room. -/
def Obligations.ParseThenSerializeRestoresBytes : Prop :=
  ∀ (s t : State) (v : Word), exec .desParse s = .next t → t.responses = s.responses ++ [⟨.ok, v⟩] →
    ∃ f : List Byte, s.rxq = f ++ t.rxq ∧ f.length = 12 + t.pay.length ∧
      (t.txq.length + f.length ≤ t.cfg.txMax →
        exec .serEmit t = .next
          { t with txq := t.txq ++ f, responses := t.responses ++ [⟨.ok, BitVec.ofNat 32 f.length⟩] })

/-- R126: a stream of frames. One DES.PARSE per frame takes the frames off in order and leaves the tail; on
a tail of fewer than 12 bytes the next DES.PARSE answers TruncatedInput and changes nothing; with a SER.EMIT
after each success TXQ gains the frames byte for byte. -/
def Obligations.StreamOfFramesParsesInOrder : Prop :=
  ∀ (s : State) (chunks : List (TypeCode × List Byte)) (frames tail : List Byte),
    frames = chunks.flatMap (fun p => be32 (BitVec.ofNat 32 p.2.length) ++ p.1.bytes ++ p.2 ++
      be32 (crc32 (p.1.bytes ++ p.2))) →
    s.rxq = frames ++ tail →
    (∀ p ∈ chunks, p.2.length ≤ s.cfg.payloadMax ∧ p.2.length < 2 ^ 32) →
    (∃ t : State,
      runInstrs (List.replicate chunks.length .desParse) s = .next t ∧
      t.rxq = tail ∧
      t.responses = s.responses ++ chunks.map (fun p => ⟨.ok, BitVec.ofNat 32 (12 + p.2.length)⟩) ∧
      (∀ p, chunks.getLast? = some p →
        t.pay = p.2 ∧ t.chunk = some ⟨p.1, crc32 (p.1.bytes ++ p.2)⟩) ∧
      (tail.length < 12 →
        exec .desParse t = .next { t with responses := t.responses ++ [⟨.truncatedInput, 0#32⟩] })) ∧
    (s.txq.length + frames.length ≤ s.cfg.txMax →
      ∃ t : State,
        runInstrs (List.replicate chunks.length [.desParse, .serEmit]).flatten s = .next t ∧
        t.rxq = tail ∧ t.txq = s.txq ++ frames)

/-! ### Type-code flags -/

/-- R131, R132: TYP.FLAGS reads and writes no state and never fails; bits 0 to 3 from bit 5 of the four
bytes (the fourth with the opposite polarity), bit 4 a copy of bit 2, bit 5 the letter test, others 0. -/
def Obligations.TypeFlagBits : Prop :=
  (∀ w : Word, encode (.typFlags w) = 0x50#8 ++ w) ∧
  ∀ w : Word, ∃ v : Word,
    (∀ s : State, exec (.typFlags w) s = .next { s with responses := s.responses ++ [⟨.ok, v⟩] }) ∧
    v.getLsbD 0 = !w.getLsbD 29 ∧ v.getLsbD 1 = !w.getLsbD 21 ∧ v.getLsbD 2 = !w.getLsbD 13 ∧
    v.getLsbD 3 = w.getLsbD 5 ∧ v.getLsbD 4 = v.getLsbD 2 ∧
    (v.getLsbD 5 = true ↔
      ∀ b ∈ [w.extractLsb' 24 8, w.extractLsb' 16 8, w.extractLsb' 8 8, w.extractLsb' 0 8],
        (0x41 ≤ b.toNat ∧ b.toNat ≤ 0x5A) ∨ (0x61 ≤ b.toNat ∧ b.toNat ≤ 0x7A)) ∧
    ∀ j, 6 ≤ j → v.getLsbD j = false

/-! ### The whole machine -/

/-- R50, R67: when the word the host presents next decodes to a command, the step is that command's meaning
at the state with the word taken (the port is log 1's). -/
def Obligations.StepRunsDecodedCommand : Prop :=
  ∀ (s : State) (cw : CommandWord) (rest : List HostMove) (i : Instr),
    s.port = .issue cw :: rest → decode cw = .ok i → step s = exec i { s with port := rest }

/-- R165: a block whose host has stopped issuing stays in its state for ever (the model's step on an empty
port is the model's choice, log 4). -/
def Obligations.SilentHostLeavesState : Prop :=
  ∀ (s : State) (k : Nat), s.port = [] → Host.Core.run Sys2Proof.core k s = .next s

/-- R50: commands take effect one at a time, in issue order: a run of steps over the words of commands is
the commands' meanings one after another (the port is log 1's). -/
def Obligations.RunOfWordsIsRunOfMeanings : Prop :=
  ∀ (is : List Instr) (s : State) (rest : List HostMove),
    s.port = is.map (fun i => .issue (encode i)) ++ rest →
    Host.Core.run Sys2Proof.core is.length s = runInstrs is { s with port := rest }

/-- R170, R171: reset between two commands puts every item at its reset value and produces no response. -/
def Obligations.HostResetRestoresResetState : Prop :=
  ∀ (s : State) (rest : List HostMove), s.port = .reset :: rest →
    step s = .next
      { s with port := rest, crcacc := 0xFFFFFFFF#32, pay := [], chunk := none, rxq := [], txq := [] }

/-- R36: the reset state, for every capacity; the model's own `State.reset` is one of them (its capacities
are log 3's choice and are not stated here), with nothing presented and nothing delivered (log 1, log 2). -/
def Obligations.ResetStateIsAsSpecified : Prop :=
  (∀ cfg : Config, State.resetWith cfg =
    { cfg := cfg, crcacc := 0xFFFFFFFF#32, pay := [], chunk := none, rxq := [], txq := [], port := [],
      responses := [] }) ∧
  ∃ cfg : Config, cfg.wf = true ∧ State.reset = State.resetWith cfg

/-- R29, R30 at reset: every reset state with capacities in their ranges meets the invariant, and so does
`State.reset`. -/
def Obligations.ResetStateMeetsInvariant : Prop :=
  (∀ cfg : Config, cfg.wf = true → (State.resetWith cfg).Inv) ∧ State.reset.Inv

/-- R172, R173: the first responses after reset, for every capacity. -/
def Obligations.FirstResponsesAfterReset : Prop :=
  ∀ (cfg : Config) (s : State), s = State.resetWith cfg →
    exec .crcRd s = .next { s with responses := [⟨.ok, 0#32⟩] } ∧
    exec .chStat s = .next { s with responses := [⟨.ok, 0#32⟩] } ∧
    exec .chRdlen s = .next { s with responses := [⟨.ok, 0#32⟩] } ∧
    exec .rxCnt s = .next { s with responses := [⟨.ok, 0#32⟩] } ∧
    exec .txCnt s = .next { s with responses := [⟨.ok, 0#32⟩] } ∧
    exec .chRdtype s = .next { s with responses := [⟨.notSealed, 0#32⟩] } ∧
    exec .chRdcrc s = .next { s with responses := [⟨.notSealed, 0#32⟩] } ∧
    exec .serEmit s = .next { s with responses := [⟨.notSealed, 0#32⟩] } ∧
    (∀ w : Word, exec (.chRdpay w) s = .next { s with responses := [⟨.indexRange, 0#32⟩] }) ∧
    exec .txPop s = .next { s with responses := [⟨.txEmpty, 0#32⟩] } ∧
    exec .desParse s = .next { s with responses := [⟨.truncatedInput, 0#32⟩] }

/-- R29, R30, R5: the invariant (parameters in range, stores within capacity, a sealed slot's CRC agrees
with its type and payload) is kept by every step, from every state that meets it. -/
def Obligations.StepKeepsInvariant : Prop :=
  ∀ s t : State, s.Inv → step s = .next t → t.Inv

/-- R29, R30: in every reachable state, whatever words and resets the host presents to a block of any
capacities in their ranges, the invariant holds. -/
def Obligations.ReachableStatesMeetInvariant : Prop :=
  ∀ (cfg : Config) (moves : List HostMove) (k : Nat) (t : State), cfg.wf = true →
    Host.Core.run Sys2Proof.core k { State.resetWith cfg with port := moves } = .next t →
    (∀ c, t.chunk = some c → c.crc = crc32 ([c.code.b0, c.code.b1, c.code.b2, c.code.b3] ++ t.pay)) ∧
    t.pay.length ≤ t.cfg.payloadMax ∧ t.rxq.length ≤ t.cfg.rxMax ∧ t.txq.length ≤ t.cfg.txMax

/-- R150: the block never stops, on any command word, in any state, however long the run. That no command
stops is log 11's reading of R150; that a step past the host's last move answers a next state is log 4's. -/
def Obligations.MachineNeverStops : Prop :=
  ∀ s : State, SafeRun s

/-- R62: every command word, legal or not, produces exactly one response; a status other than OK carries
the value 0. The second part is the model's own choice: no step ever changes the parameters (log 3) or takes
a delivered response back (log 2); so is the port, from which the step takes the word (log 1). -/
def Obligations.EveryWordAnswersOnce : Prop :=
  (∀ (s : State) (cw : CommandWord) (rest : List HostMove), s.port = .issue cw :: rest →
    ∃ (t : State) (r : Response), step s = .next t ∧ t.port = rest ∧ t.responses = s.responses ++ [r] ∧
      (r.status ≠ .ok → r.value = 0#32)) ∧
  ∀ s t : State, step s = .next t → t.cfg = s.cfg ∧ s.responses <+: t.responses

/-- R152: a command that answers an error changes no register, no PAY byte and neither queue, answers the
value 0, and the next command runs as if the failed one had never been issued. -/
def Obligations.ErrorChangesNothing : Prop :=
  ∀ (s t : State) (cw : CommandWord) (rest : List HostMove) (r : Response),
    s.port = .issue cw :: rest → step s = .next t → t.responses = s.responses ++ [r] → r.status ≠ .ok →
    r.value = 0#32 ∧ t = { s with port := rest, responses := s.responses ++ [r] } ∧
    ∀ (i : Instr) (u : State) (q : Response),
      exec i { s with port := rest } = .next u → u.responses = s.responses ++ [q] →
      exec i t = .next { u with responses := s.responses ++ [r, q] }

/-- R158, R177: retrying a failed command in the state it left gives the same error again and still
changes nothing; in particular a rejected frame stays at the head of RXQ. -/
def Obligations.FailedCommandFailsAgain : Prop :=
  ∀ (i : Instr) (s t : State) (r : Response), exec i s = .next t → t.responses = s.responses ++ [r] →
    r.status ≠ .ok → t.rxq = s.rxq ∧ exec i t = .next { t with responses := t.responses ++ [r] }

/-- R65, R151, R154, R155: every command answers only the statuses its row of the opcode map lists; the
commands with no error listed always answer OK. -/
def Obligations.StatusesAreThoseOfTheMap : Prop :=
  ∀ (i : Instr) (s t : State) (r : Response), exec i s = .next t → t.responses = s.responses ++ [r] →
    r.status ∈ statusesOf i

/-- R20, column "written by": a command that the table does not name as a writer of an item leaves it
unchanged; no command changes the parameters or what the host does next. -/
def Obligations.WritersAreThoseOfTheTable : Prop :=
  ∀ (i : Instr) (s t : State), exec i s = .next t →
    ((i ≠ .crcInit ∧ (∀ b, i ≠ .crcUpd b) ∧ i ≠ .sysRst) → t.crcacc = s.crcacc) ∧
    ((i ≠ .chClr ∧ (∀ b, i ≠ .chPush b) ∧ i ≠ .desParse ∧ i ≠ .sysRst) → t.pay = s.pay) ∧
    ((i ≠ .chClr ∧ (∀ w, i ≠ .chNew w) ∧ i ≠ .desParse ∧ i ≠ .sysRst) → t.chunk = s.chunk) ∧
    (((∀ b, i ≠ .rxPush b) ∧ i ≠ .rxFlush ∧ i ≠ .desParse ∧ i ≠ .sysRst) → t.rxq = s.rxq) ∧
    ((i ≠ .serEmit ∧ i ≠ .txPop ∧ i ≠ .txFlush ∧ i ≠ .sysRst) → t.txq = s.txq) ∧
    t.cfg = s.cfg ∧ t.port = s.port

/-- R34, R181: the accumulator and the chunk path do not interact. A command other than CRC.INIT, CRC.UPD,
CRC.RD and SYS.RST does the same whatever CRCACC holds and leaves it alone; the three CRC commands do the
same whatever the slot and the queues hold and leave them alone. -/
def Obligations.AccumulatorIsIndependent : Prop :=
  (∀ (i : Instr) (s t : State) (v : Word),
    i ≠ .crcInit → (∀ b, i ≠ .crcUpd b) → i ≠ .crcRd → i ≠ .sysRst → exec i s = .next t →
    t.crcacc = s.crcacc ∧ exec i { s with crcacc := v } = .next { t with crcacc := v }) ∧
  ∀ (i : Instr) (s t : State) (pay rxq txq : List Byte) (chunk : Option Chunk),
    (i = .crcInit ∨ (∃ b, i = .crcUpd b) ∨ i = .crcRd) → exec i s = .next t →
    t.pay = s.pay ∧ t.chunk = s.chunk ∧ t.rxq = s.rxq ∧ t.txq = s.txq ∧
    exec i { s with pay := pay, chunk := chunk, rxq := rxq, txq := txq } =
      .next { t with pay := pay, chunk := chunk, rxq := rxq, txq := txq }

/-- R28, R29: while the slot is sealed, a command leaves TYPE, CRC and the payload alone, or clears the slot
(CH.CLR, SYS.RST only), or re-establishes the invariant (CH.NEW over the same payload, DES.PARSE). -/
def Obligations.SealedChunkIsImmutable : Prop :=
  ∀ (i : Instr) (s t : State) (c : Chunk), s.chunk = some c → exec i s = .next t →
    (t.chunk = some c ∧ t.pay = s.pay) ∨
    (t.chunk = none ∧ t.pay = [] ∧ (i = .chClr ∨ i = .sysRst)) ∨
    ∃ d : Chunk, t.chunk = some d ∧ d.crc = crc32 ([d.code.b0, d.code.b1, d.code.b2, d.code.b3] ++ t.pay) ∧
      ((∃ w, i = .chNew w ∧ t.pay = s.pay) ∨ i = .desParse)

/-- R49: the nine reading commands change nothing and may be repeated with the same result; TX.POP, the
only read with a side effect, removes the byte it returns. -/
def Obligations.ReadsChangeNothingButPop : Prop :=
  (∀ (i : Instr) (s : State),
    (i ∈ [.chRdlen, .chRdtype, .chRdcrc, .chStat, .crcRd, .rxCnt, .txCnt] ∨
      (∃ w, i = .chRdpay w) ∨ ∃ w, i = .typFlags w) →
    ∃ r : Response, exec i s = .next { s with responses := s.responses ++ [r] } ∧
      runInstrs [i, i] s = .next { s with responses := s.responses ++ [r, r] }) ∧
  ∀ (s : State) (b : Byte) (q : List Byte), s.txq = b :: q →
    exec .txPop s = .next { s with txq := q, responses := s.responses ++ [⟨.ok, b.setWidth 32⟩] }

/-- R7, R30, R62: in a good state every count fits the 32-bit value field: CH.RDLEN, RX.CNT and TX.CNT
return the true counts, and a successful DES.PARSE returns the true number of bytes it took. -/
def Obligations.CountsFitTheValueField : Prop :=
  ∀ s : State, s.Inv →
    (∃ v : Word, exec .chRdlen s = .next { s with responses := s.responses ++ [⟨.ok, v⟩] } ∧
      v.toNat = s.pay.length) ∧
    (∃ v : Word, exec .rxCnt s = .next { s with responses := s.responses ++ [⟨.ok, v⟩] } ∧
      v.toNat = s.rxq.length) ∧
    (∃ v : Word, exec .txCnt s = .next { s with responses := s.responses ++ [⟨.ok, v⟩] } ∧
      v.toNat = s.txq.length) ∧
    ∀ (t : State) (v : Word), exec .desParse s = .next t → t.responses = s.responses ++ [⟨.ok, v⟩] →
      v.toNat = 12 + t.pay.length ∧ s.rxq.length = v.toNat + t.rxq.length

/-- R76: a pseudo-command is its sequence of real commands, up to and including the first that returns an
error; the ones before it have taken effect. -/
def Obligations.PseudoCommandsStopAtFirstError : Prop :=
  (∀ (s : State) (bs more : List Byte), s.chunk = none → s.pay.length + bs.length = s.cfg.payloadMax →
    runPseudo (.chPushB (bs ++ more)) s = .next
      { s with pay := s.pay ++ bs,
               responses := s.responses ++ List.replicate bs.length ⟨.ok, 0#32⟩ ++
                 if more = [] then [] else [⟨.payloadFull, 0#32⟩] }) ∧
  (∀ (s : State) (bs more : List Byte), s.rxq.length + bs.length = s.cfg.rxMax →
    runPseudo (.rxPushB (bs ++ more)) s = .next
      { s with rxq := s.rxq ++ bs,
               responses := s.responses ++ List.replicate bs.length ⟨.ok, 0#32⟩ ++
                 if more = [] then [] else [⟨.rxFull, 0#32⟩] }) ∧
  (∀ (s : State) (n : Nat), s.txq.length < n →
    runPseudo (.txPopN n) s = .next
      { s with txq := [],
               responses := s.responses ++ s.txq.map (fun b => ⟨.ok, b.setWidth 32⟩) ++
                 [⟨.txEmpty, 0#32⟩] }) ∧
  ∀ (s : State) (bs : List Byte),
    runPseudo (.chPushS bs) s = runPseudo (.chPushB bs) s ∧
    runPseudo (.crcUpdS bs) s = .next
      { s with crcacc := bs.foldl crcStep s.crcacc,
               responses := s.responses ++ List.replicate bs.length ⟨.ok, 0#32⟩ }
end

