-- ==== Sys2Proof/Laws/Bytes.lean ====
section
/-! SUPPORT. Byte-order laws: packing and unpacking are inverse to each other, and reading a field of a
queue depends on its position only. -/

namespace Sys2Proof.Machine

@[simp] theorem be32_length (v : Word) : (be32 v).length = 4 := rfl

@[simp] theorem TypeCode.bytes_length (t : TypeCode) : t.bytes.length = 4 := rfl

/-- Appending a byte multiplies by 2^8 and adds it. -/
theorem append_byte_toNat {n : Nat} (x : BitVec n) (b : Byte) : (x ++ b).toNat = x.toNat * 2 ^ 8 + b.toNat := by
  rw [BitVec.toNat_append, Nat.shiftLeft_eq, Nat.mul_comm, ← Nat.two_pow_add_eq_or_of_lt b.isLt]

/-- The weighted sum of R10. -/
theorem unbe32_toNat (b0 b1 b2 b3 : Byte) :
    (unbe32 b0 b1 b2 b3).toNat = b0.toNat * 2 ^ 24 + b1.toNat * 2 ^ 16 + b2.toNat * 2 ^ 8 + b3.toNat := by
  rw [unbe32, append_byte_toNat, append_byte_toNat, append_byte_toNat]
  omega

/-- Reading the four big-endian bytes of a word gives the word (R43). -/
theorem unbe32_extract (v : Word) :
    unbe32 (v.extractLsb' 24 8) (v.extractLsb' 16 8) (v.extractLsb' 8 8) (v.extractLsb' 0 8) = v := by
  have hv := v.isLt
  apply BitVec.eq_of_toNat_eq
  rw [unbe32_toNat]
  simp only [BitVec.extractLsb'_toNat, Nat.shiftRight_eq_div_pow]
  omega

theorem unbe32_byte0 (b0 b1 b2 b3 : Byte) : (unbe32 b0 b1 b2 b3).extractLsb' 24 8 = b0 := by
  have h0 := b0.isLt
  have h1 := b1.isLt
  have h2 := b2.isLt
  have h3 := b3.isLt
  apply BitVec.eq_of_toNat_eq
  rw [BitVec.extractLsb'_toNat, unbe32_toNat, Nat.shiftRight_eq_div_pow]
  omega

theorem unbe32_byte1 (b0 b1 b2 b3 : Byte) : (unbe32 b0 b1 b2 b3).extractLsb' 16 8 = b1 := by
  have h0 := b0.isLt
  have h1 := b1.isLt
  have h2 := b2.isLt
  have h3 := b3.isLt
  apply BitVec.eq_of_toNat_eq
  rw [BitVec.extractLsb'_toNat, unbe32_toNat, Nat.shiftRight_eq_div_pow]
  omega

theorem unbe32_byte2 (b0 b1 b2 b3 : Byte) : (unbe32 b0 b1 b2 b3).extractLsb' 8 8 = b2 := by
  have h0 := b0.isLt
  have h1 := b1.isLt
  have h2 := b2.isLt
  have h3 := b3.isLt
  apply BitVec.eq_of_toNat_eq
  rw [BitVec.extractLsb'_toNat, unbe32_toNat, Nat.shiftRight_eq_div_pow]
  omega

theorem unbe32_byte3 (b0 b1 b2 b3 : Byte) : (unbe32 b0 b1 b2 b3).extractLsb' 0 8 = b3 := by
  have h0 := b0.isLt
  have h1 := b1.isLt
  have h2 := b2.isLt
  have h3 := b3.isLt
  apply BitVec.eq_of_toNat_eq
  rw [BitVec.extractLsb'_toNat, unbe32_toNat, Nat.shiftRight_eq_div_pow]
  omega

/-- The four big-endian bytes of a word read from four bytes are those bytes (R43). -/
theorem be32_unbe32 (b0 b1 b2 b3 : Byte) : be32 (unbe32 b0 b1 b2 b3) = [b0, b1, b2, b3] := by
  simp only [be32, unbe32_byte0, unbe32_byte1, unbe32_byte2, unbe32_byte3]

/-- The type-code register returns the operand it was written from (R45, R96). -/
@[simp] theorem TypeCode.toWord_ofWord (v : Word) : (TypeCode.ofWord v).toWord = v := unbe32_extract v

@[simp] theorem TypeCode.ofWord_toWord (t : TypeCode) : TypeCode.ofWord t.toWord = t := by
  simp only [TypeCode.ofWord, TypeCode.toWord, unbe32_byte0, unbe32_byte1, unbe32_byte2, unbe32_byte3]

/-- A byte inside the queue is the queue's element there. -/
theorem byteAt_eq_getElem {q : List Byte} {i : Nat} (h : i < q.length) : byteAt q i = q[i] := by
  simp [byteAt, h]

theorem byteAt_append_left {q r : List Byte} {i : Nat} (h : i < q.length) : byteAt (q ++ r) i = byteAt q i := by
  simp [byteAt, List.getD, List.getElem?_append_left h]

theorem byteAt_append_right {q r : List Byte} {n : Nat} (h : q.length = n) (i : Nat) :
    byteAt (q ++ r) (n + i) = byteAt r i := by
  subst h
  simp [byteAt, List.getD, List.getElem?_append_right]

/-- A big-endian field that stands at offset `n` reads as its value (R43, R47). -/
theorem wordAt_be32 {q : List Byte} {n : Nat} (h : q.length = n) (v : Word) (r : List Byte) :
    wordAt (q ++ (be32 v ++ r)) n = v := by
  have h0 := byteAt_append_right (r := be32 v ++ r) h 0
  have h1 := byteAt_append_right (r := be32 v ++ r) h 1
  have h2 := byteAt_append_right (r := be32 v ++ r) h 2
  have h3 := byteAt_append_right (r := be32 v ++ r) h 3
  simp only [Nat.add_zero] at h0
  simp only [wordAt, h0, h1, h2, h3]
  exact unbe32_extract v

/-- A type code that stands at offset `n` reads as itself (R44). -/
theorem codeAt_bytes {q : List Byte} {n : Nat} (h : q.length = n) (t : TypeCode) (r : List Byte) :
    codeAt (q ++ (t.bytes ++ r)) n = t := by
  have h0 := byteAt_append_right (r := t.bytes ++ r) h 0
  have h1 := byteAt_append_right (r := t.bytes ++ r) h 1
  have h2 := byteAt_append_right (r := t.bytes ++ r) h 2
  have h3 := byteAt_append_right (r := t.bytes ++ r) h 3
  simp only [Nat.add_zero] at h0
  simp only [codeAt, h0, h1, h2, h3]
  rfl

/-- A subsequence that stands at offset `n` reads as itself (R9). -/
theorem slice_append {q : List Byte} {n : Nat} (h : q.length = n) (p r : List Byte) :
    slice (q ++ (p ++ r)) n p.length = p := by
  simp [slice, h]

end Sys2Proof.Machine
end

