-- ==== Sys2Proof/Laws/Checksum.lean ====
section
/-! SUPPORT. The accumulation laws of the CRC generator (spec/40_crc32.md R77(b)) and its eight
iterations written out (R80). -/

namespace Sys2Proof.Machine

@[simp] theorem crcFold_nil (c : Word) : crcFold c [] = c := rfl

@[simp] theorem crcFold_cons (c : Word) (b : Byte) (s : List Byte) :
    crcFold c (b :: s) = crcFold (crcStep c b) s := rfl

theorem crcFold_append (c : Word) (s t : List Byte) : crcFold c (s ++ t) = crcFold (crcFold c s) t := by
  simp only [crcFold, List.foldl_append]

theorem crcRaw_append (s t : List Byte) : crcRaw (s ++ t) = crcFold (crcRaw s) t :=
  crcFold_append crcInitial s t

/-- Undoing the final XOR gives the raw register back (R82). -/
theorem crc32_xor_final (s : List Byte) : crc32 s ^^^ crcFinalXor = crcRaw s := by
  simp [crc32]

/-- `crc_step` as eight iterations (R80). -/
theorem crcStep_eq (c : Word) (b : Byte) :
    crcStep c b =
      crcShift (crcShift (crcShift (crcShift (crcShift (crcShift (crcShift (crcShift (c ^^^ zext32 b)))))))) := rfl

/-- Bit `i` of one iteration: the bit above it, and the constant's bit where the bit shifted out is 1. -/
theorem crcShift_getLsbD (r : Word) (i : Nat) :
    (crcShift r).getLsbD i = ((r.getLsbD (i + 1)) ^^ (r.getLsbD 0 && crcPoly.getLsbD i)) := by
  unfold crcShift
  cases h : r.getLsbD 0 <;> simp [Nat.add_comm 1 i]

end Sys2Proof.Machine
end

