-- ==== Sys2Proof/Laws/State.lean ====
section
/-! SUPPORT. One lemma per field per operation over the state: what each operation of Machine/Ops.lean
writes, and that it leaves every other field alone. -/

namespace Sys2Proof.Machine

variable (s : State)

@[simp] theorem State.len_def : s.len = s.pay.length := rfl
@[simp] theorem State.isSealed_def : s.isSealed = s.chunk.isSome := rfl
@[simp] theorem State.rxcnt_def : s.rxcnt = s.rxq.length := rfl
@[simp] theorem State.txcnt_def : s.txcnt = s.txq.length := rfl

@[simp] theorem respond_cfg (st : Status) (v : Word) : (respond st v s).cfg = s.cfg := rfl
@[simp] theorem respond_crcacc (st : Status) (v : Word) : (respond st v s).crcacc = s.crcacc := rfl
@[simp] theorem respond_pay (st : Status) (v : Word) : (respond st v s).pay = s.pay := rfl
@[simp] theorem respond_chunk (st : Status) (v : Word) : (respond st v s).chunk = s.chunk := rfl
@[simp] theorem respond_rxq (st : Status) (v : Word) : (respond st v s).rxq = s.rxq := rfl
@[simp] theorem respond_txq (st : Status) (v : Word) : (respond st v s).txq = s.txq := rfl
@[simp] theorem respond_port (st : Status) (v : Word) : (respond st v s).port = s.port := rfl
@[simp] theorem respond_responses (st : Status) (v : Word) : (respond st v s).responses = s.responses ++ [⟨st, v⟩] := rfl

@[simp] theorem raise_cfg (e : Status) : (raise e s).cfg = s.cfg := rfl
@[simp] theorem raise_crcacc (e : Status) : (raise e s).crcacc = s.crcacc := rfl
@[simp] theorem raise_pay (e : Status) : (raise e s).pay = s.pay := rfl
@[simp] theorem raise_chunk (e : Status) : (raise e s).chunk = s.chunk := rfl
@[simp] theorem raise_rxq (e : Status) : (raise e s).rxq = s.rxq := rfl
@[simp] theorem raise_txq (e : Status) : (raise e s).txq = s.txq := rfl
@[simp] theorem raise_port (e : Status) : (raise e s).port = s.port := rfl
@[simp] theorem raise_responses (e : Status) : (raise e s).responses = s.responses ++ [⟨e, 0#32⟩] := rfl

@[simp] theorem stageByte_cfg (b : Byte) : (stageByte b s).cfg = s.cfg := rfl
@[simp] theorem stageByte_crcacc (b : Byte) : (stageByte b s).crcacc = s.crcacc := rfl
@[simp] theorem stageByte_pay (b : Byte) : (stageByte b s).pay = s.pay ++ [b] := rfl
@[simp] theorem stageByte_chunk (b : Byte) : (stageByte b s).chunk = s.chunk := rfl
@[simp] theorem stageByte_rxq (b : Byte) : (stageByte b s).rxq = s.rxq := rfl
@[simp] theorem stageByte_txq (b : Byte) : (stageByte b s).txq = s.txq := rfl
@[simp] theorem stageByte_port (b : Byte) : (stageByte b s).port = s.port := rfl
@[simp] theorem stageByte_responses (b : Byte) : (stageByte b s).responses = s.responses := rfl

@[simp] theorem clearSlot_cfg : (clearSlot s).cfg = s.cfg := rfl
@[simp] theorem clearSlot_crcacc : (clearSlot s).crcacc = s.crcacc := rfl
@[simp] theorem clearSlot_pay : (clearSlot s).pay = [] := rfl
@[simp] theorem clearSlot_chunk : (clearSlot s).chunk = none := rfl
@[simp] theorem clearSlot_rxq : (clearSlot s).rxq = s.rxq := rfl
@[simp] theorem clearSlot_txq : (clearSlot s).txq = s.txq := rfl
@[simp] theorem clearSlot_port : (clearSlot s).port = s.port := rfl
@[simp] theorem clearSlot_responses : (clearSlot s).responses = s.responses := rfl

@[simp] theorem sealSlot_cfg (t : TypeCode) (c : Word) : (sealSlot t c s).cfg = s.cfg := rfl
@[simp] theorem sealSlot_crcacc (t : TypeCode) (c : Word) : (sealSlot t c s).crcacc = s.crcacc := rfl
@[simp] theorem sealSlot_pay (t : TypeCode) (c : Word) : (sealSlot t c s).pay = s.pay := rfl
@[simp] theorem sealSlot_chunk (t : TypeCode) (c : Word) : (sealSlot t c s).chunk = some ⟨t, c⟩ := rfl
@[simp] theorem sealSlot_rxq (t : TypeCode) (c : Word) : (sealSlot t c s).rxq = s.rxq := rfl
@[simp] theorem sealSlot_txq (t : TypeCode) (c : Word) : (sealSlot t c s).txq = s.txq := rfl
@[simp] theorem sealSlot_port (t : TypeCode) (c : Word) : (sealSlot t c s).port = s.port := rfl
@[simp] theorem sealSlot_responses (t : TypeCode) (c : Word) : (sealSlot t c s).responses = s.responses := rfl

@[simp] theorem setCrcacc_cfg (v : Word) : (setCrcacc v s).cfg = s.cfg := rfl
@[simp] theorem setCrcacc_crcacc (v : Word) : (setCrcacc v s).crcacc = v := rfl
@[simp] theorem setCrcacc_pay (v : Word) : (setCrcacc v s).pay = s.pay := rfl
@[simp] theorem setCrcacc_chunk (v : Word) : (setCrcacc v s).chunk = s.chunk := rfl
@[simp] theorem setCrcacc_rxq (v : Word) : (setCrcacc v s).rxq = s.rxq := rfl
@[simp] theorem setCrcacc_txq (v : Word) : (setCrcacc v s).txq = s.txq := rfl
@[simp] theorem setCrcacc_port (v : Word) : (setCrcacc v s).port = s.port := rfl
@[simp] theorem setCrcacc_responses (v : Word) : (setCrcacc v s).responses = s.responses := rfl

@[simp] theorem enqueueRx_cfg (bs : List Byte) : (enqueueRx bs s).cfg = s.cfg := rfl
@[simp] theorem enqueueRx_crcacc (bs : List Byte) : (enqueueRx bs s).crcacc = s.crcacc := rfl
@[simp] theorem enqueueRx_pay (bs : List Byte) : (enqueueRx bs s).pay = s.pay := rfl
@[simp] theorem enqueueRx_chunk (bs : List Byte) : (enqueueRx bs s).chunk = s.chunk := rfl
@[simp] theorem enqueueRx_rxq (bs : List Byte) : (enqueueRx bs s).rxq = s.rxq ++ bs := rfl
@[simp] theorem enqueueRx_txq (bs : List Byte) : (enqueueRx bs s).txq = s.txq := rfl
@[simp] theorem enqueueRx_port (bs : List Byte) : (enqueueRx bs s).port = s.port := rfl
@[simp] theorem enqueueRx_responses (bs : List Byte) : (enqueueRx bs s).responses = s.responses := rfl

@[simp] theorem dequeueRx_cfg (n : Nat) : (dequeueRx n s).cfg = s.cfg := rfl
@[simp] theorem dequeueRx_crcacc (n : Nat) : (dequeueRx n s).crcacc = s.crcacc := rfl
@[simp] theorem dequeueRx_pay (n : Nat) : (dequeueRx n s).pay = s.pay := rfl
@[simp] theorem dequeueRx_chunk (n : Nat) : (dequeueRx n s).chunk = s.chunk := rfl
@[simp] theorem dequeueRx_rxq (n : Nat) : (dequeueRx n s).rxq = s.rxq.drop n := rfl
@[simp] theorem dequeueRx_txq (n : Nat) : (dequeueRx n s).txq = s.txq := rfl
@[simp] theorem dequeueRx_port (n : Nat) : (dequeueRx n s).port = s.port := rfl
@[simp] theorem dequeueRx_responses (n : Nat) : (dequeueRx n s).responses = s.responses := rfl

@[simp] theorem enqueueTx_cfg (bs : List Byte) : (enqueueTx bs s).cfg = s.cfg := rfl
@[simp] theorem enqueueTx_crcacc (bs : List Byte) : (enqueueTx bs s).crcacc = s.crcacc := rfl
@[simp] theorem enqueueTx_pay (bs : List Byte) : (enqueueTx bs s).pay = s.pay := rfl
@[simp] theorem enqueueTx_chunk (bs : List Byte) : (enqueueTx bs s).chunk = s.chunk := rfl
@[simp] theorem enqueueTx_rxq (bs : List Byte) : (enqueueTx bs s).rxq = s.rxq := rfl
@[simp] theorem enqueueTx_txq (bs : List Byte) : (enqueueTx bs s).txq = s.txq ++ bs := rfl
@[simp] theorem enqueueTx_port (bs : List Byte) : (enqueueTx bs s).port = s.port := rfl
@[simp] theorem enqueueTx_responses (bs : List Byte) : (enqueueTx bs s).responses = s.responses := rfl

@[simp] theorem dequeueTx_cfg (n : Nat) : (dequeueTx n s).cfg = s.cfg := rfl
@[simp] theorem dequeueTx_crcacc (n : Nat) : (dequeueTx n s).crcacc = s.crcacc := rfl
@[simp] theorem dequeueTx_pay (n : Nat) : (dequeueTx n s).pay = s.pay := rfl
@[simp] theorem dequeueTx_chunk (n : Nat) : (dequeueTx n s).chunk = s.chunk := rfl
@[simp] theorem dequeueTx_rxq (n : Nat) : (dequeueTx n s).rxq = s.rxq := rfl
@[simp] theorem dequeueTx_txq (n : Nat) : (dequeueTx n s).txq = s.txq.drop n := rfl
@[simp] theorem dequeueTx_port (n : Nat) : (dequeueTx n s).port = s.port := rfl
@[simp] theorem dequeueTx_responses (n : Nat) : (dequeueTx n s).responses = s.responses := rfl

@[simp] theorem resetBlock_cfg : (resetBlock s).cfg = s.cfg := rfl
@[simp] theorem resetBlock_crcacc : (resetBlock s).crcacc = 0xFFFFFFFF#32 := rfl
@[simp] theorem resetBlock_pay : (resetBlock s).pay = [] := rfl
@[simp] theorem resetBlock_chunk : (resetBlock s).chunk = none := rfl
@[simp] theorem resetBlock_rxq : (resetBlock s).rxq = [] := rfl
@[simp] theorem resetBlock_txq : (resetBlock s).txq = [] := rfl
@[simp] theorem resetBlock_port : (resetBlock s).port = s.port := rfl
@[simp] theorem resetBlock_responses : (resetBlock s).responses = s.responses := rfl

@[simp] theorem loadFrame_cfg (f : ParsedFrame) : (loadFrame f s).cfg = s.cfg := rfl
@[simp] theorem loadFrame_crcacc (f : ParsedFrame) : (loadFrame f s).crcacc = s.crcacc := rfl
@[simp] theorem loadFrame_pay (f : ParsedFrame) : (loadFrame f s).pay = f.pay := rfl
@[simp] theorem loadFrame_chunk (f : ParsedFrame) : (loadFrame f s).chunk = some ⟨f.code, f.crc⟩ := rfl
@[simp] theorem loadFrame_rxq (f : ParsedFrame) : (loadFrame f s).rxq = s.rxq.drop (frameLength f.pay.length) := rfl
@[simp] theorem loadFrame_txq (f : ParsedFrame) : (loadFrame f s).txq = s.txq := rfl
@[simp] theorem loadFrame_port (f : ParsedFrame) : (loadFrame f s).port = s.port := rfl
@[simp] theorem loadFrame_responses (f : ParsedFrame) : (loadFrame f s).responses = s.responses := rfl

@[simp] theorem presentFirst_cfg (cw : CommandWord) : (presentFirst cw s).cfg = s.cfg := rfl
@[simp] theorem presentFirst_crcacc (cw : CommandWord) : (presentFirst cw s).crcacc = s.crcacc := rfl
@[simp] theorem presentFirst_pay (cw : CommandWord) : (presentFirst cw s).pay = s.pay := rfl
@[simp] theorem presentFirst_chunk (cw : CommandWord) : (presentFirst cw s).chunk = s.chunk := rfl
@[simp] theorem presentFirst_rxq (cw : CommandWord) : (presentFirst cw s).rxq = s.rxq := rfl
@[simp] theorem presentFirst_txq (cw : CommandWord) : (presentFirst cw s).txq = s.txq := rfl
@[simp] theorem presentFirst_port (cw : CommandWord) : (presentFirst cw s).port = .issue cw :: s.port := rfl
@[simp] theorem presentFirst_responses (cw : CommandWord) : (presentFirst cw s).responses = s.responses := rfl

@[simp] theorem State.resetWith_cfg (c : Config) : (State.resetWith c).cfg = c := rfl
@[simp] theorem State.resetWith_crcacc (c : Config) : (State.resetWith c).crcacc = 0xFFFFFFFF#32 := rfl
@[simp] theorem State.resetWith_pay (c : Config) : (State.resetWith c).pay = [] := rfl
@[simp] theorem State.resetWith_chunk (c : Config) : (State.resetWith c).chunk = none := rfl
@[simp] theorem State.resetWith_rxq (c : Config) : (State.resetWith c).rxq = [] := rfl
@[simp] theorem State.resetWith_txq (c : Config) : (State.resetWith c).txq = [] := rfl
@[simp] theorem State.resetWith_port (c : Config) : (State.resetWith c).port = [] := rfl
@[simp] theorem State.resetWith_responses (c : Config) : (State.resetWith c).responses = [] := rfl

/-- The reset operation and the reset state agree on every item of the block (R141, R170). -/
theorem resetBlock_eq_resetWith :
    resetBlock s = { State.resetWith s.cfg with port := s.port, responses := s.responses } := rfl

/-- What the next host move is. -/
theorem nextMove_cases :
    (s.port = [] ∧ nextMove s = none) ∨
    ∃ m rest, s.port = m :: rest ∧ nextMove s = some (m, { s with port := rest }) := by
  unfold nextMove
  cases h : s.port with
  | nil => exact .inl ⟨rfl, rfl⟩
  | cons m rest => exact .inr ⟨m, rest, rfl, rfl⟩

end Sys2Proof.Machine
end

