-- ==== Sys2Proof/Laws/Frame.lean ====
section
/-! SUPPORT. The frame codec: everything `parseFrame` can answer (spec/43_deserializer.md R124), and
how long a frame is (spec/30_encoding.md R70, R71). -/

namespace Sys2Proof.Machine

@[simp] theorem frameBytes_length (t : TypeCode) (p : List Byte) (c : Word) :
    (frameBytes t p c).length = frameLength p.length := by
  simp only [frameBytes, frameLength, List.length_append, be32_length, TypeCode.bytes_length]
  omega

theorem slice_length {q : List Byte} {a n : Nat} (h : a + n ≤ q.length) : (slice q a n).length = n := by
  simp only [slice, List.length_take, List.length_drop]
  omega

/-- What a successful parse says: the frame is complete, its payload fits, its CRC field agrees. -/
theorem parseFrame_ok {m : Nat} {q : List Byte} {f : ParsedFrame} (h : parseFrame m q = .ok f) :
    frameLength (wordAt q 0).toNat ≤ q.length ∧ (wordAt q 0).toNat ≤ m ∧
    f.pay.length = (wordAt q 0).toNat ∧ f.code = codeAt q 4 ∧ f.pay = slice q 8 (wordAt q 0).toNat ∧
    f.crc = wordAt q (8 + (wordAt q 0).toNat) ∧ f.crc = chunkCrc f.code f.pay := by
  unfold parseFrame at h
  split at h
  · cases h
  · simp only [] at h
    split at h
    · cases h
    · split at h
      · cases h
      · split at h
        · cases h
        · rename_i h1 h2 h3 h4
          have h2' := Nat.le_of_not_lt h2
          have h4' := not_not.mp h4
          cases h
          refine ⟨h2', Nat.le_of_not_lt h3, slice_length ?_, rfl, rfl, rfl, h4'.symm⟩
          simp only [frameLength] at h2'
          omega

/-- What a failed parse answers: one of the three errors of R124, each only on its own condition. -/
theorem parseFrame_error {m : Nat} {q : List Byte} {e : Status} (h : parseFrame m q = .error e) :
    (e = .truncatedInput ∧ (q.length < 12 ∨ q.length < frameLength (wordAt q 0).toNat)) ∨
    (e = .payloadFull ∧ frameLength (wordAt q 0).toNat ≤ q.length ∧ m < (wordAt q 0).toNat) ∨
    (e = .crcMismatch ∧ frameLength (wordAt q 0).toNat ≤ q.length ∧ (wordAt q 0).toNat ≤ m) := by
  unfold parseFrame at h
  split at h
  · rename_i h1
    cases h
    exact .inl ⟨rfl, .inl h1⟩
  · simp only [] at h
    split at h
    · rename_i h1 h2
      cases h
      exact .inl ⟨rfl, .inr h2⟩
    · split at h
      · rename_i h1 h2 h3
        cases h
        exact .inr (.inl ⟨rfl, Nat.le_of_not_lt h2, h3⟩)
      · split at h
        · rename_i h1 h2 h3 h4
          cases h
          exact .inr (.inr ⟨rfl, Nat.le_of_not_lt h2, Nat.le_of_not_lt h3⟩)
        · cases h

/-- Parsing a queue whose head is a header, a payload of the declared length and a CRC field (R70). -/
theorem parseFrame_append {m : Nat} (t : TypeCode) (p : List Byte) (c : Word) (rest : List Byte)
    (hm : p.length ≤ m) (hp : p.length < 2 ^ 32) :
    parseFrame m (frameBytes t p c ++ rest) =
      if chunkCrc t p ≠ c then .error .crcMismatch else .ok ⟨t, p, c⟩ := by
  have hL : (countWord p.length).toNat = p.length := by
    rw [countWord, BitVec.toNat_ofNat]
    omega
  have hq : frameBytes t p c ++ rest = be32 (countWord p.length) ++ (t.bytes ++ (p ++ (be32 c ++ rest))) := by
    simp only [frameBytes, List.append_assoc]
  have w0 : wordAt (frameBytes t p c ++ rest) 0 = countWord p.length := by
    rw [hq]
    exact wordAt_be32 (q := []) rfl _ _
  have c4 : codeAt (frameBytes t p c ++ rest) 4 = t := by
    rw [hq]
    exact codeAt_bytes rfl t _
  have p8 : slice (frameBytes t p c ++ rest) 8 p.length = p := by
    rw [hq, ← List.append_assoc]
    exact slice_append rfl p _
  have wc : wordAt (frameBytes t p c ++ rest) (8 + p.length) = c := by
    rw [hq, ← List.append_assoc, ← List.append_assoc]
    refine wordAt_be32 ?_ c rest
    simp only [List.length_append, be32_length, TypeCode.bytes_length]
  have hlen : (frameBytes t p c ++ rest).length = frameLength p.length + rest.length := by
    rw [List.length_append, frameBytes_length]
  unfold parseFrame
  simp only [w0, hL, c4, p8, wc, hlen]
  rw [if_neg (by simp only [frameLength]; omega), if_neg (by omega), if_neg (by omega)]

/-- A frame of a chunk whose CRC agrees parses to that chunk, whatever follows it (R124, R126). -/
theorem parseFrame_frameBytes {m : Nat} (t : TypeCode) (p : List Byte) (rest : List Byte)
    (hm : p.length ≤ m) (hp : p.length < 2 ^ 32) :
    parseFrame m (frameBytes t p (chunkCrc t p) ++ rest) = .ok ⟨t, p, chunkCrc t p⟩ := by
  rw [parseFrame_append t p _ rest hm hp, if_neg (by simp)]

end Sys2Proof.Machine
end

