-- ==== Sys2Proof/Laws/Memory.lean ====
section
/-! SUPPORT. Every operation over the byte stores keeps them within their capacities (spec/10_state.md
R30), and the reset state's stores do. -/

namespace Sys2Proof.Machine

variable {s : State}

theorem resetWith_memory (c : Config) : Memory.wf (State.resetWith c) := by
  simp [Memory.wf]

theorem reset_memory : Memory.wf State.reset := resetWith_memory _

theorem respond_memory (st : Status) (v : Word) (h : Memory.wf s) : Memory.wf (respond st v s) := h

theorem raise_memory (e : Status) (h : Memory.wf s) : Memory.wf (raise e s) := h

theorem setCrcacc_memory (v : Word) (h : Memory.wf s) : Memory.wf (setCrcacc v s) := h

theorem sealSlot_memory (t : TypeCode) (c : Word) (h : Memory.wf s) : Memory.wf (sealSlot t c s) := h

theorem stageByte_memory (b : Byte) (h : Memory.wf s) (room : s.pay.length < s.cfg.payloadMax) :
    Memory.wf (stageByte b s) := by
  obtain ⟨-, h2, h3⟩ := h
  exact ⟨by simp only [stageByte_pay, stageByte_cfg, List.length_append, List.length_singleton]; omega, h2, h3⟩

theorem clearSlot_memory (h : Memory.wf s) : Memory.wf (clearSlot s) := by
  obtain ⟨-, h2, h3⟩ := h
  exact ⟨by simp, h2, h3⟩

theorem enqueueRx_memory (bs : List Byte) (h : Memory.wf s) (room : s.rxq.length + bs.length ≤ s.cfg.rxMax) :
    Memory.wf (enqueueRx bs s) := by
  obtain ⟨h1, -, h3⟩ := h
  exact ⟨h1, by simpa using room, h3⟩

theorem dequeueRx_memory (n : Nat) (h : Memory.wf s) : Memory.wf (dequeueRx n s) := by
  obtain ⟨h1, h2, h3⟩ := h
  exact ⟨h1, by simp only [dequeueRx_rxq, dequeueRx_cfg, List.length_drop]; omega, h3⟩

theorem enqueueTx_memory (bs : List Byte) (h : Memory.wf s) (room : s.txq.length + bs.length ≤ s.cfg.txMax) :
    Memory.wf (enqueueTx bs s) := by
  obtain ⟨h1, h2, -⟩ := h
  exact ⟨h1, h2, by simpa using room⟩

theorem dequeueTx_memory (n : Nat) (h : Memory.wf s) : Memory.wf (dequeueTx n s) := by
  obtain ⟨h1, h2, h3⟩ := h
  exact ⟨h1, h2, by simp only [dequeueTx_txq, dequeueTx_cfg, List.length_drop]; omega⟩

theorem resetBlock_memory : Memory.wf (resetBlock s) := by
  simp [Memory.wf]

theorem loadFrame_memory (f : ParsedFrame) (h : Memory.wf s) (room : f.pay.length ≤ s.cfg.payloadMax) :
    Memory.wf (loadFrame f s) := by
  obtain ⟨-, h2, h3⟩ := h
  exact ⟨room, by simp only [loadFrame_rxq, loadFrame_cfg, List.length_drop]; omega, h3⟩

end Sys2Proof.Machine
end

