-- ==== Sys2Proof/Laws/PerInstr.lean ====
section
/-! SUPPORT. Per-instruction laws about commands as syntax. `EncodeLegal`: the word of a command carries
the command's opcode and operand in its two fields, and it matches a row of the command table of the
command's own format (spec/30_encoding.md R60, R63, R65). -/

namespace Sys2Proof.Laws

theorem opField_commandWord (op : Byte) (arg : Word) : opField (commandWord op arg) = op := by
  apply BitVec.eq_of_toNat_eq
  have h := arg.isLt
  have h' := op.isLt
  rw [opField, commandWord, BitVec.extractLsb'_toNat, BitVec.toNat_append, Nat.shiftRight_eq_div_pow,
    Nat.shiftLeft_eq, Nat.mul_comm op.toNat, ← Nat.two_pow_add_eq_or_of_lt h]
  omega

theorem argField_commandWord (op : Byte) (arg : Word) : argField (commandWord op arg) = arg := by
  apply BitVec.eq_of_toNat_eq
  have h := arg.isLt
  rw [argField, commandWord, BitVec.extractLsb'_toNat, BitVec.toNat_append, Nat.shiftRight_eq_div_pow,
    Nat.shiftLeft_eq, Nat.mul_comm op.toNat, ← Nat.two_pow_add_eq_or_of_lt h]
  omega

/-- Masking works on the two fields of a command word apart. -/
theorem commandWord_and (op op' : Byte) (arg arg' : Word) :
    commandWord op arg &&& commandWord op' arg' = commandWord (op &&& op') (arg &&& arg') :=
  (BitVec.and_append ..).symm ▸ rfl

theorem byte_and_reserved : ∀ b : Byte, b.setWidth 32 &&& 0xFFFFFF00#32 = 0#32 := by decide

/-- Format B: the mask keeps the opcode and drops the operand byte (R63). -/
theorem matchesWord_B (op : Byte) (b : Byte) :
    (TableRow.mk (commandWord op 0) .B).matchesWord (commandWord op (b.setWidth 32)) = true := by
  refine beq_iff_eq.mpr ?_
  rw [show Format.mask .B = commandWord 0xFF#8 0xFFFFFF00#32 from rfl, commandWord_and, byte_and_reserved,
    show (0xFF#8 : Byte) = BitVec.allOnes 8 from rfl, BitVec.and_allOnes]
  rfl

/-- Format W: the mask keeps the opcode only (R63). -/
theorem matchesWord_W (op : Byte) (w : Word) :
    (TableRow.mk (commandWord op 0) .W).matchesWord (commandWord op w) = true := by
  refine beq_iff_eq.mpr ?_
  rw [show Format.mask .W = commandWord 0xFF#8 0#32 from rfl, commandWord_and, BitVec.and_zero,
    show (0xFF#8 : Byte) = BitVec.allOnes 8 from rfl, BitVec.and_allOnes]
  rfl

namespace EncodeLegal

def Statement (i : Instr) : Prop :=
  opField (encode i) = opcodeOf i ∧ argField (encode i) = argOf i ∧
  ∃ r ∈ opcodeTable, r.format = i.format ∧ r.matchesWord (encode i) = true

theorem fields (i : Instr) : opField (encode i) = opcodeOf i ∧ argField (encode i) = argOf i :=
  ⟨opField_commandWord _ _, argField_commandWord _ _⟩

theorem sysNop : Statement .sysNop :=
  ⟨(fields _).1, (fields _).2, ⟨0x0000000000#40, .N⟩, by decide, rfl, by decide⟩

theorem sysRst : Statement .sysRst :=
  ⟨(fields _).1, (fields _).2, ⟨0x0100000000#40, .N⟩, by decide, rfl, by decide⟩

theorem crcInit : Statement .crcInit :=
  ⟨(fields _).1, (fields _).2, ⟨0x1000000000#40, .N⟩, by decide, rfl, by decide⟩

theorem crcUpd (imm8 : Byte) : Statement (.crcUpd imm8) :=
  ⟨(fields _).1, (fields _).2, ⟨0x1100000000#40, .B⟩, by decide, rfl,
    matchesWord_B 0x11#8 imm8⟩

theorem crcRd : Statement .crcRd :=
  ⟨(fields _).1, (fields _).2, ⟨0x1200000000#40, .N⟩, by decide, rfl, by decide⟩

theorem chClr : Statement .chClr :=
  ⟨(fields _).1, (fields _).2, ⟨0x2000000000#40, .N⟩, by decide, rfl, by decide⟩

theorem chPush (imm8 : Byte) : Statement (.chPush imm8) :=
  ⟨(fields _).1, (fields _).2, ⟨0x2100000000#40, .B⟩, by decide, rfl,
    matchesWord_B 0x21#8 imm8⟩

theorem chNew (imm32 : Word) : Statement (.chNew imm32) :=
  ⟨(fields _).1, (fields _).2, ⟨0x2200000000#40, .W⟩, by decide, rfl,
    matchesWord_W 0x22#8 imm32⟩

theorem chStat : Statement .chStat :=
  ⟨(fields _).1, (fields _).2, ⟨0x2300000000#40, .N⟩, by decide, rfl, by decide⟩

theorem chRdlen : Statement .chRdlen :=
  ⟨(fields _).1, (fields _).2, ⟨0x2400000000#40, .N⟩, by decide, rfl, by decide⟩

theorem chRdtype : Statement .chRdtype :=
  ⟨(fields _).1, (fields _).2, ⟨0x2500000000#40, .N⟩, by decide, rfl, by decide⟩

theorem chRdcrc : Statement .chRdcrc :=
  ⟨(fields _).1, (fields _).2, ⟨0x2600000000#40, .N⟩, by decide, rfl, by decide⟩

theorem chRdpay (imm32 : Word) : Statement (.chRdpay imm32) :=
  ⟨(fields _).1, (fields _).2, ⟨0x2700000000#40, .W⟩, by decide, rfl,
    matchesWord_W 0x27#8 imm32⟩

theorem serEmit : Statement .serEmit :=
  ⟨(fields _).1, (fields _).2, ⟨0x3000000000#40, .N⟩, by decide, rfl, by decide⟩

theorem txPop : Statement .txPop :=
  ⟨(fields _).1, (fields _).2, ⟨0x3100000000#40, .N⟩, by decide, rfl, by decide⟩

theorem txCnt : Statement .txCnt :=
  ⟨(fields _).1, (fields _).2, ⟨0x3200000000#40, .N⟩, by decide, rfl, by decide⟩

theorem txFlush : Statement .txFlush :=
  ⟨(fields _).1, (fields _).2, ⟨0x3300000000#40, .N⟩, by decide, rfl, by decide⟩

theorem rxPush (imm8 : Byte) : Statement (.rxPush imm8) :=
  ⟨(fields _).1, (fields _).2, ⟨0x4000000000#40, .B⟩, by decide, rfl,
    matchesWord_B 0x40#8 imm8⟩

theorem rxCnt : Statement .rxCnt :=
  ⟨(fields _).1, (fields _).2, ⟨0x4100000000#40, .N⟩, by decide, rfl, by decide⟩

theorem rxFlush : Statement .rxFlush :=
  ⟨(fields _).1, (fields _).2, ⟨0x4200000000#40, .N⟩, by decide, rfl, by decide⟩

theorem desParse : Statement .desParse :=
  ⟨(fields _).1, (fields _).2, ⟨0x4300000000#40, .N⟩, by decide, rfl, by decide⟩

theorem typFlags (imm32 : Word) : Statement (.typFlags imm32) :=
  ⟨(fields _).1, (fields _).2, ⟨0x5000000000#40, .W⟩, by decide, rfl,
    matchesWord_W 0x50#8 imm32⟩

end EncodeLegal

end Sys2Proof.Laws
end

