-- ==== Sys2Proof/Laws/Step.lean ====
section
/-! SUPPORT. Runs of steps, and the host's next move. `core.State` unfolds to `State` only on demand, so a
proof about `Host.Core.run core` cites these lemmas and does not rewrite with the definition. -/

namespace Sys2Proof.Machine

/-- A run of a host machine whose first step answers a next state. -/
theorem run_step_of (M : Host.Core) (k : Nat) (s t : M.State) (h : M.step s = .next t) :
    M.run (k + 1) s = M.run k t := by
  rw [Host.Core.run, h]

theorem run_zero (s : State) : Host.Core.run Sys2Proof.core 0 s = .next s := rfl

theorem run_succ (k : Nat) (s t : State) (h : step s = .next t) :
    Host.Core.run Sys2Proof.core (k + 1) s = Host.Core.run Sys2Proof.core k t :=
  run_step_of Sys2Proof.core k s t h

theorem nextMove_nil (s : State) (h : s.port = []) : nextMove s = none := by
  unfold nextMove
  rw [h]

theorem nextMove_cons (s : State) (m : HostMove) (rest : List HostMove) (h : s.port = m :: rest) :
    nextMove s = some (m, { s with port := rest }) := by
  unfold nextMove
  rw [h]

/-- The word `withFetchWord` presents is the next move, and nothing else changes. -/
theorem nextMove_withFetchWord (s : State) (nbits w : Nat) :
    nextMove (s.withFetchWord nbits w) = some (.issue (BitVec.ofNat 40 (w % 2 ^ nbits)), s) := rfl

end Sys2Proof.Machine
end

