-- ==== Sys2Proof/Tests/Slice0.lean ====
section
/-! SUPPORT. Tests of the model against values written in the spec (the vectors V<n> of
spec/95_test_vectors.md, and words written out from the encoding tables of spec/30_encoding.md), and a
witness for the hypotheses of every statement. -/

namespace Sys2Proof.Tests

open Sys2Proof Sys2Proof.Machine

/-! ### Helpers -/

/-- The state an outcome gives. -/
def got (o : Host.Outcome State Fault Refusal) : Option State :=
  match o with
  | .next s => some s
  | .fault _ => none
  | .refused _ => none

/-- The response word of the last response an outcome delivered. -/
def answer (o : Host.Outcome State Fault Refusal) : Option ResponseWord :=
  (got o).bind fun s => s.responses.getLast?.map Response.word

/-- The response word to one command word presented in state `s`. -/
def ask (cw : CommandWord) (s : State) : Option ResponseWord := answer (step (presentFirst cw s))

/-- The state after one command word presented in state `s`. -/
def after (cw : CommandWord) (s : State) : Option State := got (step (presentFirst cw s))

/-- The instruction a word decodes to. -/
def reads (cw : CommandWord) : Option Instr :=
  match decode cw with
  | .ok i => some i
  | .error _ => none

/-- A small block after reset, with the capacities of V12(a). -/
def small : State := State.resetWith ⟨4, 16, 16⟩

/-- "abcd" staged, not sealed: PAY is full. -/
def staged : State := { small with pay := [0x61, 0x62, 0x63, 0x64] }

/-- The chunk "teSt" / "abcd" of V7(e). -/
def teSt : Chunk := ⟨⟨0x74, 0x65, 0x53, 0x74⟩, 0xDE380D1A#32⟩

/-- "teSt" / "abcd" sealed. -/
def sealedAbcd : State := { staged with chunk := some teSt }

/-- The frame of "teSt" / "abcd" (V7(e)). -/
def abcdFrame : List Byte :=
  [0x00, 0x00, 0x00, 0x04, 0x74, 0x65, 0x53, 0x74, 0x61, 0x62, 0x63, 0x64, 0xDE, 0x38, 0x0D, 0x1A]

/-- The frame of "IEND" with no payload (V7(b)). -/
def iendFrame : List Byte := [0x00, 0x00, 0x00, 0x00, 0x49, 0x45, 0x4E, 0x44, 0xAE, 0x42, 0x60, 0x82]

/-- The frame of "teSt" / "abc" (V7(e)). -/
def abcFrame : List Byte :=
  [0x00, 0x00, 0x00, 0x03, 0x74, 0x65, 0x53, 0x74, 0x61, 0x62, 0x63, 0x8C, 0xF9, 0xAF, 0xAF]

/-- The 46 bytes "RuSt" ++ msg of V1. -/
def rustMsg : List Byte :=
  [0x52, 0x75, 0x53, 0x74, 0x54, 0x68, 0x69, 0x73, 0x20, 0x69, 0x73, 0x20, 0x77, 0x68, 0x65, 0x72] ++
  [0x65, 0x20, 0x79, 0x6F, 0x75, 0x72, 0x20, 0x73, 0x65, 0x63, 0x72, 0x65, 0x74, 0x20, 0x6D, 0x65] ++
  [0x73, 0x73, 0x61, 0x67, 0x65, 0x20, 0x77, 0x69, 0x6C, 0x6C, 0x20, 0x62, 0x65, 0x21]

/-! ### WellFormed: each check refuses an ill-formed term (R5, R63, R66) -/

theorem test_config_ok : Config.wf ⟨0, 12, 12⟩ = true ∧ Config.wf Config.largest = true := by decide
theorem test_config_payload_too_large : Config.wf ⟨2 ^ 32, 12, 12⟩ = false := by decide
theorem test_config_rx_too_small : Config.wf ⟨0, 11, 12⟩ = false := by decide
theorem test_config_rx_too_large : Config.wf ⟨0, 2 ^ 32, 12⟩ = false := by decide
theorem test_config_tx_too_small : Config.wf ⟨0, 12, 11⟩ = false := by decide
theorem test_config_tx_too_large : Config.wf ⟨0, 12, 2 ^ 32⟩ = false := by decide

theorem test_word_unassigned : wellFormedWord 0x1300000000#40 = false := by decide
theorem test_word_operand_not_zero : wellFormedWord 0x0100000001#40 = false := by decide
theorem test_word_reserved_bits : wellFormedWord 0x1100000100#40 = false := by decide
theorem test_word_ok : wellFormedWord 0x11000000FF#40 = true ∧ wellFormedWord 0x50FFFFFFFF#40 = true := by decide

theorem test_memory_wf : Memory.wf staged ∧ ¬ Memory.wf { staged with pay := 0x60 :: staged.pay } := by decide

/-- V13: the illegal words of the spec's table. -/
theorem test_illegal_words :
    ([0x0200000000#40, 0x1300000000#40, 0x2800000000#40, 0x3400000000#40, 0x4400000000#40, 0x5100000000#40,
      0x6000000000#40, 0xFF00000000#40, 0x0000000001#40, 0x0100000001#40, 0x1000000001#40, 0x1100000100#40,
      0x21FFFFFFFF#40, 0x4380000000#40].all fun cw =>
        ask cw sealedAbcd == some 0x1000000000#40 &&
        (after cw sealedAbcd).map (fun t => { t with responses := [] }) == some sealedAbcd) = true := by
  decide +kernel

/-! ### Decode: every constructor from its word, bit by bit (op, then arg; R60, R63, R65) -/

theorem test_decode_sysNop :
    reads (0b00000000#8 ++ 0b00000000#8 ++ 0b00000000#8 ++ 0b00000000#8 ++ 0b00000000#8) = some .sysNop := by decide
theorem test_decode_sysRst :
    reads (0b00000001#8 ++ 0b00000000#8 ++ 0b00000000#8 ++ 0b00000000#8 ++ 0b00000000#8) = some .sysRst := by decide
theorem test_decode_crcInit :
    reads (0b00010000#8 ++ 0b00000000#8 ++ 0b00000000#8 ++ 0b00000000#8 ++ 0b00000000#8) = some .crcInit := by decide
theorem test_decode_crcUpd :
    reads (0b00010001#8 ++ 0b00000000#8 ++ 0b00000000#8 ++ 0b00000000#8 ++ 0b10110001#8) =
      some (.crcUpd 0xB1#8) := by decide
theorem test_decode_crcRd :
    reads (0b00010010#8 ++ 0b00000000#8 ++ 0b00000000#8 ++ 0b00000000#8 ++ 0b00000000#8) = some .crcRd := by decide
theorem test_decode_chClr :
    reads (0b00100000#8 ++ 0b00000000#8 ++ 0b00000000#8 ++ 0b00000000#8 ++ 0b00000000#8) = some .chClr := by decide
theorem test_decode_chPush :
    reads (0b00100001#8 ++ 0b00000000#8 ++ 0b00000000#8 ++ 0b00000000#8 ++ 0b01010100#8) =
      some (.chPush 0x54#8) := by decide
theorem test_decode_chNew :
    reads (0b00100010#8 ++ 0b01010010#8 ++ 0b01110101#8 ++ 0b01010011#8 ++ 0b01110100#8) =
      some (.chNew 0x52755374#32) := by decide
theorem test_decode_chStat :
    reads (0b00100011#8 ++ 0b00000000#8 ++ 0b00000000#8 ++ 0b00000000#8 ++ 0b00000000#8) = some .chStat := by decide
theorem test_decode_chRdlen :
    reads (0b00100100#8 ++ 0b00000000#8 ++ 0b00000000#8 ++ 0b00000000#8 ++ 0b00000000#8) = some .chRdlen := by decide
theorem test_decode_chRdtype :
    reads (0b00100101#8 ++ 0b00000000#8 ++ 0b00000000#8 ++ 0b00000000#8 ++ 0b00000000#8) = some .chRdtype := by decide
theorem test_decode_chRdcrc :
    reads (0b00100110#8 ++ 0b00000000#8 ++ 0b00000000#8 ++ 0b00000000#8 ++ 0b00000000#8) = some .chRdcrc := by decide
theorem test_decode_chRdpay :
    reads (0b00100111#8 ++ 0b10000000#8 ++ 0b00000000#8 ++ 0b00000001#8 ++ 0b00101001#8) =
      some (.chRdpay 0x80000129#32) := by decide
theorem test_decode_serEmit :
    reads (0b00110000#8 ++ 0b00000000#8 ++ 0b00000000#8 ++ 0b00000000#8 ++ 0b00000000#8) = some .serEmit := by decide
theorem test_decode_txPop :
    reads (0b00110001#8 ++ 0b00000000#8 ++ 0b00000000#8 ++ 0b00000000#8 ++ 0b00000000#8) = some .txPop := by decide
theorem test_decode_txCnt :
    reads (0b00110010#8 ++ 0b00000000#8 ++ 0b00000000#8 ++ 0b00000000#8 ++ 0b00000000#8) = some .txCnt := by decide
theorem test_decode_txFlush :
    reads (0b00110011#8 ++ 0b00000000#8 ++ 0b00000000#8 ++ 0b00000000#8 ++ 0b00000000#8) = some .txFlush := by decide
theorem test_decode_rxPush :
    reads (0b01000000#8 ++ 0b00000000#8 ++ 0b00000000#8 ++ 0b00000000#8 ++ 0b10101010#8) =
      some (.rxPush 0xAA#8) := by decide
theorem test_decode_rxCnt :
    reads (0b01000001#8 ++ 0b00000000#8 ++ 0b00000000#8 ++ 0b00000000#8 ++ 0b00000000#8) = some .rxCnt := by decide
theorem test_decode_rxFlush :
    reads (0b01000010#8 ++ 0b00000000#8 ++ 0b00000000#8 ++ 0b00000000#8 ++ 0b00000000#8) = some .rxFlush := by decide
theorem test_decode_desParse :
    reads (0b01000011#8 ++ 0b00000000#8 ++ 0b00000000#8 ++ 0b00000000#8 ++ 0b00000000#8) = some .desParse := by decide
theorem test_decode_typFlags :
    reads (0b01010000#8 ++ 0b11111111#8 ++ 0b00000000#8 ++ 0b10000001#8 ++ 0b00000010#8) =
      some (.typFlags 0xFF008102#32) := by decide

theorem test_decode_table_word :
    decodeTableWord 40 0x2252755374 = some (.chNew 0x52755374#32) ∧ decodeTableWord 40 0x1100000100 = none ∧
    decodeTableWord 48 0x010000000000 = none := by decide

theorem test_fetch_word :
    got (step (State.reset.withFetchWord 40 0x2100000068)) =
      some { State.reset with pay := [0x68], responses := [⟨.ok, 0#32⟩] } := by decide

/-- R61: the unit names of opcodes. -/
theorem test_units :
    unitOf 0x12#8 = some .CRC ∧ unitOf 0x33#8 = some .SERTX ∧ unitOf 0x43#8 = some .DESRX ∧
    unitOf 0x60#8 = none := by decide

/-! ### Listing syntax (R75, R76; the listings of spec/95_test_vectors.md) -/

theorem test_listing_type : readLine "CH.NEW \"RuSt\"" = some (.command 0x2252755374#40) := by decide +kernel
theorem test_listing_char : readLine "CH.PUSH 'h'" = some (.command 0x2100000068#40) := by decide +kernel
theorem test_listing_number :
    readLine "CH.RDPAY 41" = some (.command 0x2700000029#40) ∧
    readLine "CRC.UPD 0x100" = some (.command 0x1100000100#40) := by decide +kernel
theorem test_listing_pseudo :
    readLine "RX.PUSHB 0x4E 'h' 7 -> OK" = some (.pseudo (.rxPushB [0x4E, 0x68, 7])) ∧
    readLine "TX.POPN 17" = some (.pseudo (.txPopN 17)) := by decide +kernel

/-! ### The CRC function (V1, V3, V4, R89) -/

theorem test_crc_source_value : crc32 rustMsg = 2882656334#32 := by decide +kernel
theorem test_crc_123456789 :
    crc32 [0x31, 0x32, 0x33, 0x34, 0x35, 0x36, 0x37, 0x38, 0x39] = 0xCBF43926#32 := by decide +kernel
theorem test_crc_short :
    crc32 [] = 0#32 ∧ crc32 [0x00] = 0xD202EF8D#32 ∧ crc32 [0xFF, 0xFF, 0xFF, 0xFF] = 0xFFFFFFFF#32 := by
  decide +kernel
theorem test_crc_step : crcStep 0xFFFFFFFF#32 0x31#8 = 0x7C231048#32 ∧ crcStep 0#32 0x10#8 = 0x1DB71064#32 := by
  decide +kernel
theorem test_crc_residue :
    crcRaw (rustMsg ++ [0x4E, 0xD8, 0xD1, 0xAB]) = 0xDEBB20E3#32 ∧
    crcRaw (rustMsg ++ [0xAB, 0xD1, 0xD8, 0x4E]) = 0x316907D8#32 := by decide +kernel
theorem test_crc_flip : crc32 (rustMsg.modify 45 (· ^^^ 0x80#8)) = 0x46695B6E#32 := by decide +kernel

/-! ### One step per instruction -/

/-- V15 step 16. -/
theorem test_sysNop : after 0x0000000000#40 sealedAbcd = some { sealedAbcd with responses := [⟨.ok, 0#32⟩] } := by
  decide
/-- V15, SYS.RST from a busy state. -/
theorem test_sysRst :
    after 0x0100000000#40 { sealedAbcd with crcacc := 1#32, rxq := [1, 2, 3], txq := abcdFrame } =
      some { small with responses := [⟨.ok, 0#32⟩] } := by decide
/-- V5 step 5. -/
theorem test_crcInit :
    (after 0x1000000000#40 { small with crcacc := 0x174841BC#32 }).map (·.crcacc) = some 0xFFFFFFFF#32 := by decide
/-- V5 step 2. -/
theorem test_crcUpd : (after 0x1100000061#40 small).map (·.crcacc) = some 0x174841BC#32 := by decide +kernel
/-- V4, the trace over "123456789", second byte. -/
theorem test_crcUpd_second :
    (after 0x1100000032#40 { small with crcacc := 0x7C231048#32 }).map (·.crcacc) = some 0xB0ACBB32#32 := by
  decide +kernel
/-- V5 steps 1 and 3. -/
theorem test_crcRd :
    ask 0x1200000000#40 small = some 0x0000000000#40 ∧
    ask 0x1200000000#40 { small with crcacc := 0x174841BC#32 } = some 0x00E8B7BE43#40 := by decide
/-- V6(e). -/
theorem test_chClr :
    after 0x2000000000#40 sealedAbcd = some { small with responses := [⟨.ok, 0#32⟩] } := by decide
/-- V12(a) steps 5 and 9. -/
theorem test_chPush_errors :
    ask 0x2100000065#40 staged = some 0x1400000000#40 ∧ ask 0x2100000066#40 sealedAbcd = some 0x1200000000#40 := by
  decide
/-- V6(d). -/
theorem test_chPush : (after 0x2100000068#40 { small with pay := [1] }).map (·.pay) = some [1, 0x68] := by decide
/-- V6(b) steps 2 and 3: re-typing a sealed chunk. -/
theorem test_chNew_retype :
    ask 0x2249454E44#40 { small with pay := [0x41], chunk := some ⟨⟨0x52, 0x75, 0x53, 0x74⟩, 0xFC626605#32⟩ } =
      some 0x00D0C13EE7#40 := by decide +kernel
/-- V12(a) step 6. -/
theorem test_chNew : after 0x2274655374#40 staged =
    some { sealedAbcd with responses := [⟨.ok, 0xDE380D1A#32⟩] } := by decide +kernel
/-- V6(c), V6(d). -/
theorem test_chStat :
    ask 0x2300000000#40 sealedAbcd = some 0x0000000001#40 ∧ ask 0x2300000000#40 staged = some 0#40 := by decide
/-- V6(b) step 5 in shape: LEN as the value. -/
theorem test_chRdlen : ask 0x2400000000#40 staged = some 0x0000000004#40 := by decide
/-- V6(b) step 6 in shape: TYPE[0] in the top byte. -/
theorem test_chRdtype :
    ask 0x2500000000#40 sealedAbcd = some 0x0074655374#40 ∧ ask 0x2500000000#40 staged = some 0x1100000000#40 := by
  decide
theorem test_chRdcrc :
    ask 0x2600000000#40 sealedAbcd = some 0x00DE380D1A#40 ∧ ask 0x2600000000#40 staged = some 0x1100000000#40 := by
  decide
/-- V6(d), V6(f): the last byte, the first index beyond, the largest index. -/
theorem test_chRdpay :
    ask 0x2700000003#40 staged = some 0x0000000064#40 ∧ ask 0x2700000004#40 staged = some 0x1300000000#40 ∧
    ask 0x27FFFFFFFF#40 staged = some 0x1300000000#40 := by decide
/-- V7(e), V12(a) step 7: TXQ becomes exactly full. -/
theorem test_serEmit : after 0x3000000000#40 sealedAbcd =
    some { sealedAbcd with txq := abcdFrame, responses := [⟨.ok, 0x10#32⟩] } := by decide
/-- V12(a) steps 8 and 12: TxFull, and NotSealed before it. -/
theorem test_serEmit_errors :
    ask 0x3000000000#40 { sealedAbcd with txq := [9] } = some 0x1600000000#40 ∧
    ask 0x3000000000#40 { staged with txq := abcdFrame } = some 0x1100000000#40 := by decide
/-- V12(a) steps 13 and 16. -/
theorem test_txPop :
    after 0x3100000000#40 { small with txq := [0xA1, 2] } =
      some { small with txq := [2], responses := [⟨.ok, 0xA1#32⟩] } ∧
    ask 0x3100000000#40 small = some 0x1700000000#40 := by decide
theorem test_txCnt : ask 0x3200000000#40 { small with txq := abcdFrame } = some 0x0000000010#40 := by decide
theorem test_txFlush : after 0x3300000000#40 { small with txq := abcdFrame } =
    some { small with responses := [⟨.ok, 0#32⟩] } := by decide
/-- V12(c) in shape: RxFull on a full queue. -/
theorem test_rxPush_full : ask 0x40000000AA#40 { small with rxq := abcdFrame } = some 0x1500000000#40 := by decide
theorem test_rxPush : (after 0x40000000AA#40 { small with rxq := [1] }).map (·.rxq) = some [1, 0xAA] := by decide
theorem test_rxCnt : ask 0x4100000000#40 { small with rxq := abcFrame } = some 0x000000000F#40 := by decide
/-- V8(e). -/
theorem test_rxFlush : after 0x4200000000#40 { sealedAbcd with rxq := abcFrame } =
    some { sealedAbcd with responses := [⟨.ok, 0#32⟩] } := by decide
/-- V8(c): a parse overwrites staged bytes; the trailing byte stays. -/
theorem test_desParse : after 0x4300000000#40 { small with pay := [1, 2], rxq := iendFrame ++ [7] } =
    some { small with chunk := some ⟨⟨0x49, 0x45, 0x4E, 0x44⟩, 0xAE426082#32⟩, rxq := [7],
                      responses := [⟨.ok, 0xC#32⟩] } := by decide +kernel
/-- V9, V10, V12(b): CrcMismatch, TruncatedInput with a length near 2^32, PayloadFull. -/
theorem test_desParse_errors :
    ask 0x4300000000#40 { small with rxq := abcdFrame.modify 15 (· ^^^ 1#8) } = some 0x0200000000#40 ∧
    ask 0x4300000000#40 { small with rxq := [0xFF, 0xFF, 0xFF, 0xF4] ++ iendFrame.drop 4 } =
      some 0x0100000000#40 ∧
    ask 0x4300000000#40 { State.resetWith ⟨2, 32, 12⟩ with rxq := abcFrame } = some 0x1400000000#40 := by
  decide +kernel
/-- V14, rows "RuSt" and "RuST". -/
theorem test_typFlags :
    ask 0x5052755374#40 small = some 0x000000003D#40 ∧ ask 0x5052755354#40 small = some 0x0000000035#40 := by decide
/-- V14, the four bytes next to the letter ranges, and "Ru1t". -/
theorem test_typFlags_not_letters :
    ask 0x50405B607B#40 small = some 0x000000000B#40 ∧ ask 0x5052753174#40 small = some 0x0000000009#40 := by decide

/-! ### Witnesses: hypotheses of the statements, each met by a concrete state and operands -/

theorem inv_small : small.Inv := ⟨by decide, by decide, fun _ h => by cases h⟩
theorem inv_sealed : sealedAbcd.Inv := ⟨by decide, by decide, fun c h => by cases h; decide +kernel⟩

theorem witness_LegalWordsAreExactlyTableRows : decode 0x11000000FF#40 = .ok (.crcUpd 0xFF#8) := by rfl

theorem witness_IllegalWordsAnswerIllegalCommand :
    IllegalByRule 0x1300000000#40 ∧ IllegalByRule 0x0100000001#40 ∧ IllegalByRule 0x1100000100#40 ∧
    ¬ IllegalByRule 0x11000000FF#40 ∧ ¬ IllegalByRule 0x22FFFFFFFF#40 ∧
    (presentFirst 0x1300000000#40 small).port = [.issue 0x1300000000#40] := by
  unfold IllegalByRule
  decide

theorem witness_NopAndResetCommands :
    ({ sealedAbcd with port := [.reset] } : State).port = .reset :: [] ∧
    step { sealedAbcd with port := [.reset] } = .next small := ⟨rfl, rfl⟩

theorem witness_SingleBitFlipChangesChecksum :
    (0 < [0x21#8].length ∧ 7 < 8) ∧ (45 < rustMsg.length ∧ 0 < 8) := by decide

theorem witness_PushStagesPayloadByte :
    sealedAbcd.chunk = some teSt ∧
    (staged.chunk = none ∧ staged.pay.length = staged.cfg.payloadMax) ∧
    (small.chunk = none ∧ ({ small with pay := [1, 2, 3] } : State).pay.length ≠ small.cfg.payloadMax) := by decide

theorem witness_ReadTypeAndCrc :
    staged.chunk = none ∧ sealedAbcd.chunk = some teSt ∧ sealedAbcd.Inv := ⟨rfl, rfl, inv_sealed⟩

theorem witness_ReadPayloadByte :
    staged.pay.length ≤ (4#32).toNat ∧ staged.pay.length ≤ (0xFFFFFFFF#32).toNat ∧
    staged.pay[(3#32).toNat]? = some 0x64 := by decide

theorem witness_BuildChunkFromBytes :
    [0x61#8, 0x62, 0x63, 0x64].length ≤ sealedAbcd.cfg.payloadMax ∧ ([] : List Byte).length ≤ 0 := by decide

theorem witness_TypeAndPayloadDetermineChunk :
    sealedAbcd.Inv ∧ sealedAbcd.chunk = some teSt ∧ teSt.code = teSt.code ∧ sealedAbcd.pay = sealedAbcd.pay :=
  ⟨inv_sealed, rfl, rfl, rfl⟩

/-- NotSealed, one byte too few, exactly enough room. -/
theorem witness_EmitAppendsFrame :
    staged.chunk = none ∧ sealedAbcd.chunk = some teSt ∧ sealedAbcd.Inv ∧
    (sealedAbcd.cfg.txMax : Int) - ({ sealedAbcd with txq := [9] } : State).txq.length < 12 + sealedAbcd.pay.length ∧
    (12 : Int) + sealedAbcd.pay.length ≤ (sealedAbcd.cfg.txMax : Int) - sealedAbcd.txq.length :=
  ⟨rfl, rfl, inv_sealed, by decide, by decide⟩

theorem witness_TransmitQueueCommands :
    small.txq = [] ∧ ({ small with txq := [1, 2] } : State).txq = 1 :: [2] := by decide

theorem witness_PopsReturnBytesInOrder : ({ small with txq := [1, 2, 3] } : State).txq = [1, 2] ++ [3] := by decide

theorem witness_ReceiveQueueCommands :
    ({ small with rxq := abcdFrame } : State).rxq.length = small.cfg.rxMax ∧
    ({ small with rxq := abcFrame } : State).rxq.length ≠ small.cfg.rxMax := by decide

/-- 11 bytes; a length one too large; a payload one too large; a wrong CRC field; a good frame that fills
the payload store; the smallest frame. -/
theorem witness_ParseChecksInOrder :
    ({ small with rxq := iendFrame.drop 1 } : State).rxq.length < 12 ∧
    (let q := [0x00#8, 0x00, 0x00, 0x01] ++ iendFrame.drop 4; 12 ≤ q.length ∧ q.length < 12 + 1) ∧
    (12 + 3 ≤ abcFrame.length ∧ (State.resetWith ⟨2, 32, 12⟩).cfg.payloadMax < 3) ∧
    (abcdFrame = 0 :: 0 :: 0 :: 4 :: 0x74 :: 0x65 :: 0x53 :: 0x74 ::
        ([0x61, 0x62, 0x63, 0x64] ++ 0xDE :: 0x38 :: 0x0D :: 0x1A :: []) ∧ 4 ≤ small.cfg.payloadMax ∧
      crc32 ([0x74, 0x65, 0x53, 0x74] ++ [0x61, 0x62, 0x63, 0x64]) = unbe32 0xDE 0x38 0x0D 0x1A ∧
      crc32 ([0x74, 0x65, 0x53, 0x74] ++ [0x61, 0x62, 0x63, 0x64]) ≠ unbe32 0xDE 0x38 0x0D 0x1B) ∧
    crc32 ([0x49, 0x45, 0x4E, 0x44] ++ []) = unbe32 0xAE 0x42 0x60 0x82 := by decide +kernel

theorem witness_HugeLengthIsTruncated :
    ({ small with rxq := 0xFF :: 0xFF :: 0xFF :: 0xF4 :: iendFrame.drop 4 } : State).Inv ∧
    0xF4 ≤ (0xF4#8).toNat ∧ 0xF4 ≤ (0xFF#8).toNat :=
  ⟨⟨by decide, by decide, fun _ h => by cases h⟩, by decide, by decide⟩

theorem witness_FrameLongerThanQueueNeverCompletes :
    ({ small with rxq := [0, 0, 0, 5] } : State).Inv ∧
    small.cfg.rxMax < 12 + ((0#8).toNat * 2 ^ 24 + (0#8).toNat * 2 ^ 16 + (0#8).toNat * 2 ^ 8 + (5#8).toNat) :=
  ⟨⟨by decide, by decide, fun _ h => by cases h⟩, by decide⟩

theorem witness_TamperedCrcFieldFails :
    abcdFrame.modify 15 (· ^^^ 1#8) ++ [7] = be32 (BitVec.ofNat 32 4) ++
      [teSt.code.b0, teSt.code.b1, teSt.code.b2, teSt.code.b3] ++ staged.pay ++ be32 0xDE380D1B#32 ++ [7] ∧
    staged.pay.length ≤ staged.cfg.payloadMax ∧ staged.pay.length < 2 ^ 32 ∧
    0xDE380D1B#32 ≠ crc32 ([teSt.code.b0, teSt.code.b1, teSt.code.b2, teSt.code.b3] ++ staged.pay) := by
  decide +kernel

/-- The first bit of the type code and the last bit of the CRC field. -/
theorem witness_SingleBitCorruptionIsDetected :
    abcdFrame = be32 (BitVec.ofNat 32 staged.pay.length) ++
      [teSt.code.b0, teSt.code.b1, teSt.code.b2, teSt.code.b3] ++ staged.pay ++
      be32 (crc32 ([teSt.code.b0, teSt.code.b1, teSt.code.b2, teSt.code.b3] ++ staged.pay)) ∧
    staged.pay.length ≤ staged.cfg.payloadMax ∧ staged.pay.length < 2 ^ 32 ∧
    (4 ≤ 4 ∧ 4 < abcdFrame.length ∧ 0 < 8) ∧ (4 ≤ 15 ∧ 15 < abcdFrame.length ∧ 7 < 8) := by decide +kernel

theorem witness_SerializeThenParseRestoresChunk :
    sealedAbcd.Inv ∧ sealedAbcd.chunk = some teSt ∧ sealedAbcd.txq = [] ∧
    12 + sealedAbcd.pay.length ≤ sealedAbcd.cfg.txMax ∧ 12 + sealedAbcd.pay.length ≤ sealedAbcd.cfg.rxMax ∧
    small.cfg = sealedAbcd.cfg ∧ small.rxq = [] :=
  ⟨inv_sealed, rfl, rfl, by decide, by decide, rfl, rfl⟩

/-- DES.PARSE of the "teSt" / "abcd" frame followed by one byte, with exactly the room SER.EMIT needs. -/
theorem witness_ParseThenSerializeRestoresBytes :
    got (exec .desParse { small with rxq := abcdFrame ++ [7] }) =
      some { sealedAbcd with rxq := [7], responses := small.responses ++ [⟨.ok, 16#32⟩] } ∧
    sealedAbcd.txq.length + abcdFrame.length ≤ sealedAbcd.cfg.txMax := by decide +kernel

/-- Two frames, a tail of 11 bytes, capacities that just hold them. -/
theorem witness_StreamOfFramesParsesInOrder :
    abcdFrame ++ iendFrame =
      [(teSt.code, staged.pay), (⟨0x49, 0x45, 0x4E, 0x44⟩, ([] : List Byte))].flatMap (fun p =>
        be32 (BitVec.ofNat 32 p.2.length) ++ p.1.bytes ++ p.2 ++ be32 (crc32 (p.1.bytes ++ p.2))) ∧
    ({ State.resetWith ⟨4, 39, 28⟩ with rxq := abcdFrame ++ iendFrame ++ iendFrame.drop 1 } : State).rxq =
      (abcdFrame ++ iendFrame) ++ iendFrame.drop 1 ∧
    (∀ p ∈ [(teSt.code, staged.pay), (⟨0x49, 0x45, 0x4E, 0x44⟩, ([] : List Byte))],
      p.2.length ≤ 4 ∧ p.2.length < 2 ^ 32) ∧
    (iendFrame.drop 1).length < 12 ∧ ([] : List Byte).length + (abcdFrame ++ iendFrame).length ≤ 28 := by
  decide +kernel

/-- The boundary letters of the ALPHA test and their neighbours. -/
theorem witness_TypeFlagBits :
    (0x41 ≤ (0x41#8).toNat ∧ (0x41#8).toNat ≤ 0x5A) ∧ (0x61 ≤ (0x7A#8).toNat ∧ (0x7A#8).toNat ≤ 0x7A) ∧
    ¬ ((0x41 ≤ (0x5B#8).toNat ∧ (0x5B#8).toNat ≤ 0x5A) ∨ (0x61 ≤ (0x5B#8).toNat ∧ (0x5B#8).toNat ≤ 0x7A)) := by
  decide

theorem witness_StepRunsDecodedCommand :
    (presentFirst 0x2100000068#40 small).port = .issue 0x2100000068#40 :: [] ∧
    decode 0x2100000068#40 = .ok (.chPush 0x68#8) := ⟨rfl, rfl⟩

theorem witness_SilentHostLeavesState : State.reset.port = [] ∧ sealedAbcd.port = [] := by decide

theorem witness_RunOfWordsIsRunOfMeanings :
    ({ small with port := [.issue 0x2100000068#40, .issue 0x2400000000#40, .reset] } : State).port =
      [Instr.chPush 0x68#8, .chRdlen].map (fun i => .issue (encode i)) ++ [.reset] := by decide

theorem witness_HostResetRestoresResetState :
    ({ sealedAbcd with port := [.reset, .issue 0#40] } : State).port = .reset :: [.issue 0#40] := by decide

theorem witness_ResetStateMeetsInvariant : Config.wf ⟨0, 12, 12⟩ = true := by decide

theorem witness_FirstResponsesAfterReset : small = State.resetWith ⟨4, 16, 16⟩ := by decide

theorem witness_StepKeepsInvariant :
    sealedAbcd.Inv ∧ step sealedAbcd = .next sealedAbcd := ⟨inv_sealed, rfl⟩

theorem witness_ReachableStatesMeetInvariant :
    Config.wf ⟨4, 16, 16⟩ = true ∧
    Host.Core.run Sys2Proof.core 1 { State.resetWith ⟨4, 16, 16⟩ with port := [.issue 0x2100000068#40] } =
      .next { small with pay := [0x68], responses := [⟨.ok, 0#32⟩] } := ⟨by decide, rfl⟩

/-- Also the command the answer is compared with: a byte pushed into RXQ runs on as if nothing had failed. -/
theorem witness_ErrorChangesNothing :
    step (presentFirst 0x2100000065#40 sealedAbcd) =
      .next { sealedAbcd with responses := sealedAbcd.responses ++ [⟨.sealed, 0#32⟩] } ∧
    Status.sealed ≠ .ok ∧
    exec (.rxPush 1#8) sealedAbcd =
      .next { sealedAbcd with rxq := [1#8], responses := sealedAbcd.responses ++ [⟨.ok, 0#32⟩] } :=
  ⟨rfl, by decide, rfl⟩

theorem witness_EveryWordAnswersOnce :
    (presentFirst 0x2100000065#40 sealedAbcd).port = .issue 0x2100000065#40 :: [] ∧
    step (presentFirst 0x2100000065#40 sealedAbcd) =
      .next { sealedAbcd with responses := sealedAbcd.responses ++ [⟨.sealed, 0#32⟩] } := ⟨rfl, rfl⟩

theorem witness_FailedCommandFailsAgain :
    exec .desParse { small with rxq := iendFrame.drop 1 } =
      .next { small with rxq := iendFrame.drop 1, responses := small.responses ++ [⟨.truncatedInput, 0#32⟩] } ∧
    Status.truncatedInput ≠ .ok := ⟨rfl, by decide⟩

theorem witness_StatusesAreThoseOfTheMap :
    exec .serEmit small = .next { small with responses := small.responses ++ [⟨.notSealed, 0#32⟩] } := by rfl

theorem witness_WritersAreThoseOfTheTable :
    exec .rxFlush { small with rxq := abcFrame } = .next { small with responses := [⟨.ok, 0#32⟩] } ∧
    Instr.rxFlush ≠ .crcInit ∧ (∀ b, Instr.rxFlush ≠ .crcUpd b) ∧ Instr.rxFlush ≠ .sysRst ∧
    (∀ b, Instr.rxFlush ≠ .chPush b) ∧ (∀ w, Instr.rxFlush ≠ .chNew w) ∧ Instr.rxFlush ≠ .txPop ∧
    (∀ b, Instr.txFlush ≠ .rxPush b) ∧ Instr.txFlush ≠ .rxFlush ∧ Instr.txFlush ≠ .desParse := by
  simp
  rfl

theorem witness_AccumulatorIsIndependent :
    exec .chClr sealedAbcd = .next { small with responses := [⟨.ok, 0#32⟩] } ∧
    (Instr.chClr ≠ .crcInit ∧ (∀ b, Instr.chClr ≠ .crcUpd b) ∧ Instr.chClr ≠ .crcRd ∧ Instr.chClr ≠ .sysRst) ∧
    exec .crcInit sealedAbcd = .next { sealedAbcd with responses := [⟨.ok, 0#32⟩] } := by
  simp
  exact ⟨rfl, rfl⟩

theorem witness_SealedChunkIsImmutable :
    sealedAbcd.chunk = some teSt ∧
    exec .txFlush sealedAbcd = .next { sealedAbcd with responses := [⟨.ok, 0#32⟩] } ∧
    exec .chClr sealedAbcd = .next { small with responses := [⟨.ok, 0#32⟩] } := ⟨rfl, rfl, rfl⟩

theorem witness_ReadsChangeNothingButPop :
    Instr.chRdlen ∈ [Instr.chRdlen, .chRdtype, .chRdcrc, .chStat, .crcRd, .rxCnt, .txCnt] ∧
    ({ small with txq := [5] } : State).txq = 5 :: [] := by decide

theorem witness_CountsFitTheValueField :
    ({ small with rxq := abcdFrame } : State).Inv ∧
    got (exec .desParse { small with rxq := abcdFrame }) =
      some { sealedAbcd with responses := small.responses ++ [⟨.ok, 16#32⟩] } :=
  ⟨⟨by decide, by decide, fun _ h => by cases h⟩, by decide +kernel⟩

theorem witness_ResponseWordCarriesStatusAndValue : Status.txEmpty.code = Status.txEmpty.code := by rfl

theorem witness_SlotStatusAndLength : 1 ≤ 1 ∧ 1 ≤ 31 := by decide

theorem witness_PseudoCommandsStopAtFirstError :
    (small.chunk = none ∧ small.pay.length + [1#8, 2, 3, 4].length = small.cfg.payloadMax) ∧
    ({ small with rxq := abcFrame } : State).rxq.length + [9#8].length = small.cfg.rxMax ∧
    ({ small with txq := [1, 2] } : State).txq.length < 3 := by decide

end Sys2Proof.Tests
end

section
/-! Reads (spec/20_memory.md R49): what each of the nine commands that write nothing answers, and the
one read with a side effect, TX.POP. -/

namespace Sys2Proof.Machine

/-- In `s` the command's whole effect is the response `r`, whatever the host has received before. -/
def OnlyAnswers (i : Instr) (s : State) (r : Response) : Prop :=
  ∀ rs : List Response, exec i { s with responses := rs } = .next { s with responses := rs ++ [r] }

theorem runInstrs_nil (s : State) : runInstrs [] s = .next s := rfl

theorem runInstrs_cons_of_next {i : Instr} {s t : State} (is : List Instr) (h : exec i s = .next t) :
    runInstrs (i :: is) s = runInstrs is t := by
  rw [runInstrs, h]

section
variable {i : Instr} {s : State} {r : Response}

theorem OnlyAnswers.exec_eq (h : OnlyAnswers i s r) :
    exec i s = .next { s with responses := s.responses ++ [r] } := h s.responses

/-- A read sees nothing of its own first response, so it answers the same again. -/
theorem OnlyAnswers.runInstrs_twice (h : OnlyAnswers i s r) :
    runInstrs [i, i] s = .next { s with responses := s.responses ++ [r, r] } :=
  calc runInstrs [i, i] s
    _ = runInstrs [i] { s with responses := s.responses ++ [r] } := runInstrs_cons_of_next _ h.exec_eq
    _ = runInstrs [] { s with responses := s.responses ++ [r] ++ [r] } := runInstrs_cons_of_next _ (h _)
    _ = .next { s with responses := s.responses ++ [r, r] } := by rw [runInstrs_nil, List.append_assoc]; rfl

end

/-! ### The response of each read -/

section
variable (s : State)

theorem crcRd_onlyAnswers : OnlyAnswers .crcRd s ⟨.ok, s.crcacc ^^^ crcFinalXor⟩ := fun _ => rfl

theorem chStat_onlyAnswers : OnlyAnswers .chStat s ⟨.ok, statWord s.isSealed⟩ := fun _ => rfl

theorem chRdlen_onlyAnswers : OnlyAnswers .chRdlen s ⟨.ok, countWord s.len⟩ := fun _ => rfl

theorem rxCnt_onlyAnswers : OnlyAnswers .rxCnt s ⟨.ok, countWord s.rxcnt⟩ := fun _ => rfl

theorem txCnt_onlyAnswers : OnlyAnswers .txCnt s ⟨.ok, countWord s.txcnt⟩ := fun _ => rfl

theorem typFlags_onlyAnswers (w : Word) :
    OnlyAnswers (.typFlags w) s ⟨.ok, typeFlags (TypeCode.ofWord w)⟩ := fun _ => rfl

variable {s}

theorem chRdtype_onlyAnswers_of_none (h : s.chunk = none) :
    OnlyAnswers .chRdtype s ⟨.notSealed, 0#32⟩ := fun rs => by
  simp only [exec, execChRdtype, h, raise, respond]

theorem chRdtype_onlyAnswers_of_some {c : Chunk} (h : s.chunk = some c) :
    OnlyAnswers .chRdtype s ⟨.ok, c.code.toWord⟩ := fun rs => by
  simp only [exec, execChRdtype, h, respond]

theorem chRdcrc_onlyAnswers_of_none (h : s.chunk = none) :
    OnlyAnswers .chRdcrc s ⟨.notSealed, 0#32⟩ := fun rs => by
  simp only [exec, execChRdcrc, h, raise, respond]

theorem chRdcrc_onlyAnswers_of_some {c : Chunk} (h : s.chunk = some c) :
    OnlyAnswers .chRdcrc s ⟨.ok, c.crc⟩ := fun rs => by
  simp only [exec, execChRdcrc, h, respond]

theorem chRdpay_onlyAnswers_of_none {w : Word} (h : s.pay[w.toNat]? = none) :
    OnlyAnswers (.chRdpay w) s ⟨.indexRange, 0#32⟩ := fun rs => by
  simp only [exec, execChRdpay, memRead, h, raise, respond]

theorem chRdpay_onlyAnswers_of_some {w : Word} {b : Byte} (h : s.pay[w.toNat]? = some b) :
    OnlyAnswers (.chRdpay w) s ⟨.ok, zext32 b⟩ := fun rs => by
  simp only [exec, execChRdpay, memRead, h, respond]

end

section
variable (s : State)

theorem exists_chRdtype_onlyAnswers : ∃ r, OnlyAnswers .chRdtype s r := by
  cases h : s.chunk with
  | none => exact ⟨_, chRdtype_onlyAnswers_of_none h⟩
  | some c => exact ⟨_, chRdtype_onlyAnswers_of_some h⟩

theorem exists_chRdcrc_onlyAnswers : ∃ r, OnlyAnswers .chRdcrc s r := by
  cases h : s.chunk with
  | none => exact ⟨_, chRdcrc_onlyAnswers_of_none h⟩
  | some c => exact ⟨_, chRdcrc_onlyAnswers_of_some h⟩

theorem exists_chRdpay_onlyAnswers (w : Word) : ∃ r, OnlyAnswers (.chRdpay w) s r := by
  cases h : s.pay[w.toNat]? with
  | none => exact ⟨_, chRdpay_onlyAnswers_of_none h⟩
  | some b => exact ⟨_, chRdpay_onlyAnswers_of_some h⟩

/-- R49's nine reads. -/
theorem exists_onlyAnswers_of_read {i : Instr}
    (hi : i ∈ [.chRdlen, .chRdtype, .chRdcrc, .chStat, .crcRd, .rxCnt, .txCnt] ∨
      (∃ w, i = .chRdpay w) ∨ ∃ w, i = .typFlags w) :
    ∃ r, OnlyAnswers i s r := by
  rcases hi with hmem | ⟨w, rfl⟩ | ⟨w, rfl⟩
  · simp only [List.mem_cons, List.not_mem_nil, or_false] at hmem
    rcases hmem with rfl | rfl | rfl | rfl | rfl | rfl | rfl
    · exact ⟨_, chRdlen_onlyAnswers s⟩
    · exact exists_chRdtype_onlyAnswers s
    · exact exists_chRdcrc_onlyAnswers s
    · exact ⟨_, chStat_onlyAnswers s⟩
    · exact ⟨_, crcRd_onlyAnswers s⟩
    · exact ⟨_, rxCnt_onlyAnswers s⟩
    · exact ⟨_, txCnt_onlyAnswers s⟩
  · exact exists_chRdpay_onlyAnswers s w
  · exact ⟨_, typFlags_onlyAnswers s w⟩

end

/-- TX.POP on a non-empty queue answers the head byte and leaves the tail (R112). -/
theorem exec_txPop_of_cons {s : State} {b : Byte} {q : List Byte} (h : s.txq = b :: q) :
    exec .txPop s = .next { s with txq := q, responses := s.responses ++ [⟨.ok, b.setWidth 32⟩] } := by
  simp only [exec, execTxPop, h, respond, dequeueTx, zext32, List.drop_one, List.tail_cons]

/-- Settles O52: a read's response does not depend on the responses delivered before, so it answers the
same when repeated; TX.POP is the one read that removes what it returns. -/
theorem readsChangeNothingButPop : Obligations.ReadsChangeNothingButPop := by
  unfold Obligations.ReadsChangeNothingButPop
  refine ⟨fun i s hi => ?_, fun s b q h => exec_txPop_of_cons h⟩
  obtain ⟨r, hr⟩ := exists_onlyAnswers_of_read s hi
  exact ⟨r, hr.exec_eq, hr.runInstrs_twice⟩

end Sys2Proof.Machine
end

section
/-! Illegal words (spec/30_encoding.md R63, R65 to R67): which operands a row of the table takes, and that
the decoder accepts a word exactly when R66 finds nothing wrong with it. -/

namespace Sys2Proof

/-- The operands a format takes (R63). -/
def Format.Takes : Format → Word → Prop
  | .N, arg => arg = 0#32
  | .B, arg => arg.extractLsb' 8 24 = 0#24
  | .W, _ => True

/-- `read` decodes operands as the format says, into commands of one shape (R63). -/
@[reducible] def Format.ReadBy : Format → (Word → Except Illegal Instr) → Prop
  | .N, read => ∃ i : Instr, ∀ arg, read arg = noOperand arg i
  | .B, read => ∃ i : Byte → Instr, ∀ arg, read arg = byteOperand arg i
  | .W, read => ∃ i : Word → Instr, ∀ arg, read arg = wordOperand arg i

theorem noOperand_ok_iff (arg : Word) (i : Instr) :
    (∃ j, noOperand arg i = .ok j) ↔ Format.N.Takes arg := by
  unfold noOperand Format.Takes
  split <;> simp_all

theorem byteOperand_ok_iff (arg : Word) (i : Byte → Instr) :
    (∃ j, byteOperand arg i = .ok j) ↔ Format.B.Takes arg := by
  unfold byteOperand Format.Takes
  split <;> simp_all

theorem wordOperand_ok_iff (arg : Word) (i : Word → Instr) :
    (∃ j, wordOperand arg i = .ok j) ↔ Format.W.Takes arg :=
  iff_of_true ⟨i arg, rfl⟩ trivial

/-- A decoder of operands by a format accepts exactly what the format takes. -/
theorem Format.ReadBy.ok_iff {f : Format} {read : Word → Except Illegal Instr} (h : f.ReadBy read)
    (arg : Word) : (∃ j, read arg = .ok j) ↔ f.Takes arg := by
  cases f with
  | N => obtain ⟨i, hi⟩ := h; rw [hi]; exact noOperand_ok_iff arg i
  | B => obtain ⟨i, hi⟩ := h; rw [hi]; exact byteOperand_ok_iff arg i
  | W => obtain ⟨i, hi⟩ := h; rw [hi]; exact wordOperand_ok_iff arg i

/-- The opcode map reads the operand of every row of the table by the row's format (R65). -/
theorem decodeFields_readBy_row {r : TableRow} (hr : r ∈ opcodeTable) :
    r.format.ReadBy (decodeFields (opField r.pattern)) := by
  simp only [opcodeTable, List.cons_append, List.nil_append, List.mem_cons, List.not_mem_nil,
    or_false] at hr
  rcases hr with rfl | rfl | rfl | rfl | rfl | rfl | rfl | rfl | rfl | rfl | rfl | rfl | rfl | rfl |
    rfl | rfl | rfl | rfl | rfl | rfl | rfl | rfl
  all_goals exact ⟨_, fun _ => rfl⟩

/-- An opcode of no row is unassigned (R65). -/
theorem decodeFields_of_no_row {op : Byte} (h : ∀ r ∈ opcodeTable, opField r.pattern ≠ op) (arg : Word) :
    decodeFields op arg = .error (.unassignedOpcode op) := by
  unfold decodeFields
  split
  case h_23 => rfl
  all_goals exact absurd h (by decide)

/-- A word with the opcode of a row decodes exactly when the row's format takes its operand. -/
theorem decode_ok_iff_of_row {r : TableRow} (hr : r ∈ opcodeTable) {cw : CommandWord}
    (hop : opField r.pattern = opField cw) :
    (∃ i, decode cw = .ok i) ↔ r.format.Takes (argField cw) := by
  rw [decode, ← hop]
  exact (decodeFields_readBy_row hr).ok_iff _

theorem argField_reservedBits (cw : CommandWord) :
    (argField cw).extractLsb' 8 24 = cw.extractLsb' 8 24 := by
  rw [argField, BitVec.extractLsb'_extractLsb'_of_le (by omega)]

end Sys2Proof

namespace Sys2Proof.Machine

/-- A row that does not take the operand of a word makes the word illegal by R66's second or third case. -/
theorem illegalByRule_of_not_takes {r : TableRow} (hr : r ∈ opcodeTable) {cw : CommandWord}
    (hop : opField r.pattern = opField cw) (h : ¬ r.format.Takes (argField cw)) : IllegalByRule cw := by
  cases hf : r.format <;> rw [hf] at h
  case N => exact .inr (.inl ⟨r, hr, hop, hf, h⟩)
  case B =>
    rw [Format.Takes, argField_reservedBits] at h
    exact .inr (.inr ⟨r, hr, hop, hf, h⟩)
  case W => exact absurd trivial h

/-- R66's three cases are exactly the words that do not decode. -/
theorem illegalByRule_iff (cw : CommandWord) : IllegalByRule cw ↔ ¬ ∃ i, decode cw = .ok i := by
  constructor
  · rintro (hno | ⟨r, hr, hop, hf, harg⟩ | ⟨r, hr, hop, hf, harg⟩)
    · have herr : decode cw = .error (.unassignedOpcode (opField cw)) := decodeFields_of_no_row hno _
      simp [herr]
    · rw [decode_ok_iff_of_row hr hop, hf]
      exact harg
    · rw [decode_ok_iff_of_row hr hop, hf, Format.Takes, argField_reservedBits]
      exact harg
  · intro hbad
    by_cases hrow : ∃ r ∈ opcodeTable, opField r.pattern = opField cw
    · obtain ⟨r, hr, hop⟩ := hrow
      exact illegalByRule_of_not_takes hr hop (mt (decode_ok_iff_of_row hr hop).2 hbad)
    · exact .inl fun r hr hop => hrow ⟨r, hr, hop⟩

/-- A step on a word that does not decode takes the word and answers (IllegalCommand, 0), whatever made the
word illegal and whatever the state (R66, R67). -/
theorem step_of_decode_error {s : State} {cw : CommandWord} {rest : List HostMove} {why : Illegal}
    (hport : s.port = .issue cw :: rest) (hdec : decode cw = .error why) :
    step s =
      .next { s with port := rest, responses := s.responses ++ [⟨.illegalCommand, 0#32⟩] } := by
  simp only [step, nextMove_cons s _ rest hport, hdec, illegalWord, raise, respond]

/-- Settles O3: the three cases of R66 are the words outside the decoder's domain, and the step answers
those before it looks at the state. -/
theorem illegalWordsAnswerIllegalCommand : Obligations.IllegalWordsAnswerIllegalCommand := by
  unfold Obligations.IllegalWordsAnswerIllegalCommand
  intro cw
  refine ⟨fun hlegal => ?_, fun hillegal => ?_⟩
  · exact not_not.1 (mt (illegalByRule_iff cw).2 hlegal)
  · have hno := not_exists.1 ((illegalByRule_iff cw).1 hillegal)
    refine ⟨hno, fun s rest hport => ?_⟩
    cases hdec : decode cw with
    | ok i => exact absurd hdec (hno i)
    | error why => exact step_of_decode_error hport hdec

end Sys2Proof.Machine
end

section
/-! The stand-alone CRC generator (spec/40_crc32.md R84 to R86): what CRC.INIT and CRC.UPD write, and that
a run of CRC.UPD folds `crc_step` over its bytes. -/

namespace Sys2Proof.Machine

theorem exec_crcInit (s : State) :
    exec .crcInit s =
      .next { s with crcacc := crcInitial, responses := s.responses ++ [⟨.ok, 0#32⟩] } := rfl

theorem exec_crcUpd (s : State) (b : Byte) :
    exec (.crcUpd b) s =
      .next { s with crcacc := crcStep s.crcacc b, responses := s.responses ++ [⟨.ok, 0#32⟩] } := rfl

/-- Settles O8: both commands are one write of CRCACC and one response, in every state. -/
theorem crcInitAndUpdate : Obligations.CrcInitAndUpdate := by
  unfold Obligations.CrcInitAndUpdate
  exact ⟨rfl, fun _ => rfl, fun s => ⟨exec_crcInit s, exec_crcUpd s⟩⟩

/-- CRC.UPD of bytes in order, whatever is issued next, folds `crc_step` over them from the CRCACC it finds
and answers (OK, 0) once per byte (R77(b), R85). -/
theorem runInstrs_map_crcUpd_append (bs : List Byte) (is : List Instr) (s : State) :
    runInstrs (bs.map .crcUpd ++ is) s =
      runInstrs is { s with crcacc := crcFold s.crcacc bs,
                            responses := s.responses ++ List.replicate bs.length ⟨.ok, 0#32⟩ } := by
  induction bs generalizing s with
  | nil => simp
  | cons b bs ih =>
    rw [List.map_cons, List.cons_append, runInstrs_cons_of_next _ (exec_crcUpd s b), ih]
    simp [List.replicate_succ]

/-- Settles O9: CRC.RD only answers, and the CRCACC it answers from after CRC.INIT and the updates is
`crc_raw` of their bytes. -/
theorem crcReadReturnsChecksum : Obligations.CrcReadReturnsChecksum := by
  unfold Obligations.CrcReadReturnsChecksum
  refine ⟨rfl, fun s => ⟨(crcRd_onlyAnswers s).exec_eq, fun bs => ?_⟩⟩
  rw [List.cons_append, runInstrs_cons_of_next _ (exec_crcInit s), runInstrs_map_crcUpd_append,
    runInstrs_cons_of_next _ (crcRd_onlyAnswers _).exec_eq, runInstrs_nil]
  simp [crcRaw, crc32, List.replicate_succ]

end Sys2Proof.Machine
end

section
/-! The chunk slot (spec/41_chunk_slot.md R90 to R99): what each of its commands that write answers and
leaves in the slot, and that a run of CH.PUSH stages its bytes in order. -/

namespace Sys2Proof.Machine

theorem exec_chClr (s : State) :
    exec .chClr s =
      .next { s with pay := [], chunk := none, responses := s.responses ++ [⟨.ok, 0#32⟩] } := rfl

theorem exec_chNew (s : State) (w : Word) :
    exec (.chNew w) s =
      .next { s with chunk := some ⟨TypeCode.ofWord w, chunkCrc (TypeCode.ofWord w) s.pay⟩,
                     responses := s.responses ++ [⟨.ok, chunkCrc (TypeCode.ofWord w) s.pay⟩] } := rfl

section
variable {s : State} (b : Byte)

theorem exec_chPush_of_sealed {c : Chunk} (h : s.chunk = some c) :
    exec (.chPush b) s = .next { s with responses := s.responses ++ [⟨.sealed, 0#32⟩] } := by
  simp [exec, execChPush, h, raise, respond]

theorem exec_chPush_of_full (h : s.chunk = none) (hfull : s.pay.length = s.cfg.payloadMax) :
    exec (.chPush b) s = .next { s with responses := s.responses ++ [⟨.payloadFull, 0#32⟩] } := by
  simp [exec, execChPush, h, hfull, raise, respond]

theorem exec_chPush_of_room (h : s.chunk = none) (hroom : s.pay.length ≠ s.cfg.payloadMax) :
    exec (.chPush b) s =
      .next { s with pay := s.pay ++ [b], responses := s.responses ++ [⟨.ok, 0#32⟩] } := by
  simp [exec, execChPush, h, hroom, stageByte, respond]

end

/-- CH.PUSH of bytes that fit an unsealed slot, whatever is issued next, stages them in order after the
bytes already there and answers (OK, 0) once per byte (R92). -/
theorem runInstrs_map_chPush_append (bs : List Byte) (is : List Instr) (s : State)
    (h : s.chunk = none) (hfit : s.pay.length + bs.length ≤ s.cfg.payloadMax) :
    runInstrs (bs.map .chPush ++ is) s =
      runInstrs is { s with pay := s.pay ++ bs,
                            responses := s.responses ++ List.replicate bs.length ⟨.ok, 0#32⟩ } := by
  induction bs generalizing s with
  | nil => simp
  | cons b bs ih =>
    rw [List.length_cons] at hfit
    have hroom : s.pay.length ≠ s.cfg.payloadMax := by omega
    have hrest : (s.pay ++ [b]).length + bs.length ≤ s.cfg.payloadMax := by
      rw [List.length_append, List.length_singleton]
      omega
    rw [List.map_cons, List.cons_append, runInstrs_cons_of_next _ (exec_chPush_of_room b h hroom), ih]
    · simp [List.replicate_succ]
    · exact h
    · exact hrest

/-- Settles O20: the cleared slot has room for all the bytes, CH.NEW seals what they staged, and CH.RDTYPE
packs the type code back into the operand. -/
theorem buildChunkFromBytes : Obligations.BuildChunkFromBytes := by
  unfold Obligations.BuildChunkFromBytes
  intro s bs w hfit
  have hcleared : ([] : List Byte).length + bs.length ≤ s.cfg.payloadMax := by simpa using hfit
  rw [List.cons_append, runInstrs_cons_of_next _ (exec_chClr s),
    runInstrs_map_chPush_append bs _ _ rfl hcleared, runInstrs_cons_of_next _ (exec_chNew _ w),
    runInstrs_cons_of_next _ (chRdtype_onlyAnswers_of_some rfl).exec_eq, runInstrs_nil]
  have hcrc : chunkCrc (TypeCode.ofWord w) bs = crc32 (be32 w ++ bs) := rfl
  simp [hcrc, List.replicate_succ]

/-- Settles O14: CH.CLR has no check, and its writes are those of the slot alone. -/
theorem clearEmptiesSlot : Obligations.ClearEmptiesSlot := by
  unfold Obligations.ClearEmptiesSlot
  exact ⟨rfl, exec_chClr⟩

/-- Settles O15: one case for each of R92's checks, and the staged byte goes after the valid bytes. -/
theorem pushStagesPayloadByte : Obligations.PushStagesPayloadByte := by
  unfold Obligations.PushStagesPayloadByte
  refine ⟨fun _ => rfl, fun s b => ⟨fun c h => exec_chPush_of_sealed b h, exec_chPush_of_full b,
    fun h hroom => ⟨s.pay ++ [b], exec_chPush_of_room b h hroom, ?_, ?_, ?_⟩⟩⟩
  · exact List.length_append
  · exact List.getElem?_concat_length
  · exact fun j hj => List.getElem?_append_left hj

/-- Settles O16: CH.NEW has no check, and the chunk it writes is the operand's type code with the CRC over
it and the staged payload. -/
theorem newSealsStagedPayload : Obligations.NewSealsStagedPayload := by
  unfold Obligations.NewSealsStagedPayload
  exact ⟨fun _ => rfl, fun s w => ⟨_, exec_chNew s w, rfl, rfl, rfl, rfl, rfl⟩⟩

theorem statWord_getLsbD_zero (f : Bool) : (statWord f).getLsbD 0 = f := by
  cases f <;> rfl

theorem statWord_getLsbD_of_pos (f : Bool) {j : Nat} (hj : 1 ≤ j) : (statWord f).getLsbD j = false := by
  have hj0 : j ≠ 0 := Nat.ne_of_gt hj
  cases f <;> simp [statWord, hj0]

/-- Settles O17: both commands only answer, and CH.STAT's value holds SEALED in bit 0 alone. -/
theorem slotStatusAndLength : Obligations.SlotStatusAndLength := by
  unfold Obligations.SlotStatusAndLength
  refine ⟨rfl, rfl, fun s => ⟨⟨_, (chStat_onlyAnswers s).exec_eq, ?_, ?_⟩, (chRdlen_onlyAnswers s).exec_eq⟩⟩
  · exact statWord_getLsbD_zero s.isSealed
  · exact fun j hj => statWord_getLsbD_of_pos s.isSealed hj

/-- Settles O18: both commands only answer, from the chunk where there is one; the stored CRC is a correct
one by the slot invariant. -/
theorem readTypeAndCrc : Obligations.ReadTypeAndCrc := by
  unfold Obligations.ReadTypeAndCrc
  refine ⟨rfl, rfl, fun s => ⟨fun h => ?_, fun c h => ⟨?_, ?_, ?_⟩⟩⟩
  · exact ⟨(chRdtype_onlyAnswers_of_none h).exec_eq, (chRdcrc_onlyAnswers_of_none h).exec_eq⟩
  · exact ⟨_, (chRdtype_onlyAnswers_of_some h).exec_eq, unbe32_byte0 .., unbe32_byte1 ..,
      unbe32_byte2 .., unbe32_byte3 ..⟩
  · exact (chRdcrc_onlyAnswers_of_some h).exec_eq
  · exact fun hinv => hinv.slot c h

/-- Settles O19: the index finds a byte of the payload exactly when it is below LEN. -/
theorem readPayloadByte : Obligations.ReadPayloadByte := by
  unfold Obligations.ReadPayloadByte
  refine ⟨fun _ => rfl, fun s w => ⟨fun hle => ?_, fun b hb => ?_⟩⟩
  · exact (chRdpay_onlyAnswers_of_none (List.getElem?_eq_none hle)).exec_eq
  · exact (chRdpay_onlyAnswers_of_some hb).exec_eq

/-- Settles O21: the slot invariant makes the CRC of a sealed slot a function of its type and payload. -/
theorem typeAndPayloadDetermineChunk : Obligations.TypeAndPayloadDetermineChunk := by
  unfold Obligations.TypeAndPayloadDetermineChunk
  intro s u c d hs hu hc hd hcode hpay
  have hcrc : c.crc = d.crc := by rw [hs.slot c hc, hu.slot d hd, hcode, hpay]
  cases c
  cases d
  exact congrArg₂ Chunk.mk hcode hcrc

end Sys2Proof.Machine
end

section
/-! The serializer and the transmit queue (spec/42_serializer.md R110 to R114): what each command answers
and leaves in TXQ, and that a run of TX.POP returns the bytes in order. -/

namespace Sys2Proof.Machine

section
variable {s : State}

theorem exec_serEmit_of_none (h : s.chunk = none) :
    exec .serEmit s = .next { s with responses := s.responses ++ [⟨.notSealed, 0#32⟩] } := by
  simp only [exec, execSerEmit, h, raise, respond]

theorem exec_serEmit_of_full {c : Chunk} (h : s.chunk = some c)
    (hfull : s.cfg.txMax < s.txq.length + frameLength s.pay.length) :
    exec .serEmit s = .next { s with responses := s.responses ++ [⟨.txFull, 0#32⟩] } := by
  have hpos : 0 < frameLength s.pay.length := by rw [frameLength]; omega
  have hfree : s.cfg.txMax - s.txq.length < frameLength s.pay.length := by omega
  simp only [exec, execSerEmit, h, State.txcnt_def, State.len_def, hfree, if_true, raise, respond]

theorem exec_serEmit_of_room {c : Chunk} (h : s.chunk = some c)
    (hroom : s.txq.length + frameLength s.pay.length ≤ s.cfg.txMax) :
    exec .serEmit s =
      .next { s with txq := s.txq ++ frameBytes c.code s.pay c.crc,
                     responses := s.responses ++ [⟨.ok, countWord (frameLength s.pay.length)⟩] } := by
  have hfree : ¬ s.cfg.txMax - s.txq.length < frameLength s.pay.length := by omega
  simp only [exec, execSerEmit, h, State.txcnt_def, State.len_def, hfree, if_false, enqueueTx, respond]

theorem exec_txPop_of_nil (h : s.txq = []) :
    exec .txPop s = .next { s with responses := s.responses ++ [⟨.txEmpty, 0#32⟩] } := by
  simp only [exec, execTxPop, h, raise, respond]

end

theorem exec_txFlush (s : State) :
    exec .txFlush s = .next { s with txq := [], responses := s.responses ++ [⟨.ok, 0#32⟩] } := by
  simp only [exec, execTxFlush, State.txcnt_def, dequeueTx, respond, List.drop_length]

/-- One TX.POP per byte at the head of TXQ answers those bytes in order and leaves the rest (R112). -/
theorem runInstrs_replicate_txPop (out rest : List Byte) (s : State) (h : s.txq = out ++ rest) :
    runInstrs (List.replicate out.length .txPop) s =
      .next { s with txq := rest, responses := s.responses ++ out.map fun b => ⟨.ok, b.setWidth 32⟩ } := by
  induction out generalizing s with
  | nil =>
    obtain rfl : s.txq = rest := h
    simp [runInstrs_nil]
  | cons b out ih =>
    rw [List.length_cons, List.replicate_succ, runInstrs_cons_of_next _ (exec_txPop_of_cons h), ih _ rfl]
    simp

/-- Settles O24: the induction over the bytes popped, each TX.POP taking the head. -/
theorem popsReturnBytesInOrder : Obligations.PopsReturnBytesInOrder := by
  unfold Obligations.PopsReturnBytesInOrder
  exact fun s out rest h => runInstrs_replicate_txPop out rest s h

/-- R5, R30: in a good state a count within TX_MAX is the value of the word that answers it. -/
theorem State.Inv.countWord_toNat_of_le_txMax {s : State} (h : s.Inv) {n : Nat} (hn : n ≤ s.cfg.txMax) :
    (countWord n).toNat = n := by
  have hcfg := h.config
  simp only [Config.wf, Bool.and_eq_true, decide_eq_true_eq] at hcfg
  rw [countWord, BitVec.toNat_ofNat]
  omega

/-- Settles O22: the slot decides NotSealed, the free space TxFull, and what is appended is the wire form of
the chunk; its length fits the response since it fits TXQ. -/
theorem emitAppendsFrame : Obligations.EmitAppendsFrame := by
  unfold Obligations.EmitAppendsFrame
  refine ⟨rfl, fun s => ⟨exec_serEmit_of_none, fun c hc => ⟨fun hfull => ?_, fun hroom => ?_⟩⟩⟩
  · exact exec_serEmit_of_full hc (by rw [frameLength]; omega)
  · have hfit : s.txq.length + frameLength s.pay.length ≤ s.cfg.txMax := by rw [frameLength]; omega
    refine ⟨_, _, exec_serEmit_of_room hc hfit, rfl, ?_, fun hinv => ⟨?_, hinv.slot c hc⟩⟩
    · exact List.length_append.trans (congrArg _ (frameBytes_length ..))
    · exact hinv.countWord_toNat_of_le_txMax (by omega)

/-- Settles O23: TX.POP splits on the queue as R112 does; the other two have no check. -/
theorem transmitQueueCommands : Obligations.TransmitQueueCommands := by
  unfold Obligations.TransmitQueueCommands
  exact ⟨rfl, rfl, rfl, fun s => ⟨exec_txPop_of_nil, fun _ _ h => exec_txPop_of_cons h,
    (txCnt_onlyAnswers s).exec_eq, exec_txFlush s⟩⟩

end Sys2Proof.Machine
end

section
/-! The serializer-side round trip (spec/42_serializer.md R115), and the two commands of the receiving side
it needs: RX.PUSH with room (R121) and DES.PARSE on a valid frame (R124). -/

namespace Sys2Proof.Machine

theorem exec_rxPush_of_room {s : State} (b : Byte) (hroom : s.rxq.length ≠ s.cfg.rxMax) :
    exec (.rxPush b) s =
      .next { s with rxq := s.rxq ++ [b], responses := s.responses ++ [⟨.ok, 0#32⟩] } := by
  simp only [exec, execRxPush, State.rxcnt_def, hroom, if_false, enqueueRx, respond]

/-- RX.PUSH of bytes that fit RXQ, whatever is issued next, queues them in order after the bytes already
there and answers (OK, 0) once per byte (R121). -/
theorem runInstrs_map_rxPush_append (bs : List Byte) (is : List Instr) (s : State)
    (hfit : s.rxq.length + bs.length ≤ s.cfg.rxMax) :
    runInstrs (bs.map .rxPush ++ is) s =
      runInstrs is { s with rxq := s.rxq ++ bs,
                            responses := s.responses ++ List.replicate bs.length ⟨.ok, 0#32⟩ } := by
  induction bs generalizing s with
  | nil => simp
  | cons b bs ih =>
    rw [List.length_cons] at hfit
    have hroom : s.rxq.length ≠ s.cfg.rxMax := by omega
    have hrest : (s.rxq ++ [b]).length + bs.length ≤ s.cfg.rxMax := by
      rw [List.length_append, List.length_singleton]
      omega
    rw [List.map_cons, List.cons_append, runInstrs_cons_of_next _ (exec_rxPush_of_room b hroom), ih]
    · simp [List.replicate_succ]
    · exact hrest

/-- DES.PARSE on a frame whose CRC field agrees and whose payload fits the store loads the frame's chunk,
takes exactly the frame off RXQ and answers its length, whatever the slot held and whatever follows (R124). -/
theorem exec_desParse_of_frame {s : State} {c : Chunk} {p rest : List Byte}
    (h : s.rxq = frameBytes c.code p c.crc ++ rest) (hcrc : c.crc = chunkCrc c.code p)
    (hmax : p.length ≤ s.cfg.payloadMax) (hlen : p.length < 2 ^ 32) :
    exec .desParse s =
      .next { s with pay := p, chunk := some c, rxq := rest,
                     responses := s.responses ++ [⟨.ok, countWord (frameLength p.length)⟩] } := by
  have hdrop : s.rxq.drop (frameLength p.length) = rest := by
    rw [h, List.drop_left' (frameBytes_length ..)]
  have hparse : parseFrame s.cfg.payloadMax s.rxq = .ok ⟨c.code, p, c.crc⟩ := by
    rw [h, hcrc, parseFrame_frameBytes c.code p rest hmax hlen]
  simp only [exec, execDesParse, hparse, loadFrame, dequeueRx, hdrop, sealSlot, respond]

/-- SER.EMIT into an empty TXQ and a TX.POP per byte of the frame answer the frame's length and its bytes,
and leave the state as it was (R111, R112). -/
theorem runInstrs_serEmit_txPops {s : State} {c : Chunk} (hc : s.chunk = some c) (hempty : s.txq = [])
    (hroom : frameLength s.pay.length ≤ s.cfg.txMax) :
    runInstrs (.serEmit :: List.replicate (frameLength s.pay.length) .txPop) s =
      .next { s with
        responses := s.responses ++ [⟨.ok, countWord (frameLength s.pay.length)⟩] ++
          (frameBytes c.code s.pay c.crc).map fun b => ⟨.ok, b.setWidth 32⟩ } := by
  have hfit : s.txq.length + frameLength s.pay.length ≤ s.cfg.txMax := by simpa [hempty] using hroom
  rw [runInstrs_cons_of_next _ (exec_serEmit_of_room hc hfit), ← frameBytes_length c.code s.pay c.crc,
    runInstrs_replicate_txPop _ [] _ (by simp [hempty]), ← hempty]

/-- RX.PUSH of the bytes of a valid frame into an empty RXQ with room, then DES.PARSE, loads the frame's
chunk and leaves RXQ empty, whatever the slot held (R121, R124). -/
theorem runInstrs_rxPushes_desParse {u : State} {c : Chunk} {p : List Byte} (hempty : u.rxq = [])
    (hcrc : c.crc = chunkCrc c.code p) (hroom : frameLength p.length ≤ u.cfg.rxMax)
    (hmax : p.length ≤ u.cfg.payloadMax) (hlen : p.length < 2 ^ 32) :
    runInstrs ((frameBytes c.code p c.crc).map .rxPush ++ [.desParse]) u =
      .next { u with
        pay := p, chunk := some c,
        responses := u.responses ++ List.replicate (frameLength p.length) ⟨.ok, 0#32⟩ ++
          [⟨.ok, countWord (frameLength p.length)⟩] } := by
  have hfit : u.rxq.length + (frameBytes c.code p c.crc).length ≤ u.cfg.rxMax := by
    simpa [hempty] using hroom
  rw [runInstrs_map_rxPush_append _ _ _ hfit, frameBytes_length,
    runInstrs_cons_of_next _ (exec_desParse_of_frame (rest := []) ?_ hcrc ?_ hlen), runInstrs_nil, ← hempty]
  · rw [hempty, List.nil_append, List.append_nil]
  · exact hmax

/-- Settles O31: both ends speak of the one frame of the chunk, and by the slot invariant its CRC field is
the one DES.PARSE checks for. -/
theorem serializeThenParseRestoresChunk : Obligations.SerializeThenParseRestoresChunk := by
  unfold Obligations.SerializeThenParseRestoresChunk
  intro s c hinv hc hempty htx hrx
  have hcrc : c.crc = chunkCrc c.code s.pay := hinv.slot c hc
  have hflen : (frameBytes c.code s.pay c.crc).length = frameLength s.pay.length := frameBytes_length ..
  refine ⟨frameBytes c.code s.pay c.crc, hflen, ?_, fun u hcfg hu => ?_⟩
  · rw [hflen]
    exact runInstrs_serEmit_txPops hc hempty htx
  · obtain ⟨hpay, -, -⟩ := hinv.memory
    have hlen : s.pay.length < 2 ^ 32 := by
      have hcount := hinv.countWord_toNat_of_le_txMax htx
      have hword := (countWord (12 + s.pay.length)).isLt
      omega
    rw [hflen]
    exact runInstrs_rxPushes_desParse hu hcrc (hcfg ▸ hrx) (hcfg ▸ hpay) hlen

end Sys2Proof.Machine
end

section
/-! The receive queue (spec/43_deserializer.md R121 to R123): RX.PUSH on a full queue, and RX.FLUSH. -/

namespace Sys2Proof.Machine

theorem exec_rxPush_of_full {s : State} (b : Byte) (hfull : s.rxq.length = s.cfg.rxMax) :
    exec (.rxPush b) s = .next { s with responses := s.responses ++ [⟨.rxFull, 0#32⟩] } := by
  simp only [exec, execRxPush, State.rxcnt_def, hfull, if_true, raise, respond]

theorem exec_rxFlush (s : State) :
    exec .rxFlush s = .next { s with rxq := [], responses := s.responses ++ [⟨.ok, 0#32⟩] } := by
  simp only [exec, execRxFlush, State.rxcnt_def, dequeueRx, respond, List.drop_length]

/-- Settles O25: RX.PUSH splits on whether the queue is full, as R121 does; the other two have no check. -/
theorem receiveQueueCommands : Obligations.ReceiveQueueCommands := by
  unfold Obligations.ReceiveQueueCommands
  exact ⟨fun _ => rfl, rfl, rfl, fun s => ⟨fun b => exec_rxPush_of_full b, fun b => exec_rxPush_of_room b,
    (rxCnt_onlyAnswers s).exec_eq, exec_rxFlush s⟩⟩

end Sys2Proof.Machine
end

section
/-! DES.PARSE (spec/43_deserializer.md R124): what each of its checks answers, and that a queue it accepts
begins with the frame of what it loads. -/

namespace Sys2Proof.Machine

/-! ### The checks in order -/

/-- Both length checks of R124 are this one: a queue of fewer than 12 bytes is shorter than every frame. -/
theorem parseFrame_of_incomplete {m : Nat} {q : List Byte} (h : q.length < frameLength (wordAt q 0).toNat) :
    parseFrame m q = .error .truncatedInput := by
  unfold parseFrame
  by_cases hshort : q.length < 12
  · rw [if_pos hshort]
  · rw [if_neg hshort]
    exact if_pos h

theorem parseFrame_of_payloadFull {m : Nat} {q : List Byte} (h : frameLength (wordAt q 0).toNat ≤ q.length)
    (hfull : m < (wordAt q 0).toNat) : parseFrame m q = .error .payloadFull := by
  have hlong : ¬ q.length < 12 := by rw [frameLength] at h; omega
  have hcomplete : ¬ q.length < frameLength (wordAt q 0).toNat := Nat.not_lt.mpr h
  simp only [parseFrame, hlong, hcomplete, hfull, if_false, if_true]

theorem parseFrame_of_crcMismatch {m : Nat} {t : TypeCode} {p : List Byte} {c : Word} (rest : List Byte)
    (hmax : p.length ≤ m) (hlen : p.length < 2 ^ 32) (hcrc : chunkCrc t p ≠ c) :
    parseFrame m (frameBytes t p c ++ rest) = .error .crcMismatch := by
  rw [parseFrame_append t p c rest hmax hlen, if_pos hcrc]

section
variable {s : State}

/-- On any error nothing is written (R124). -/
theorem exec_desParse_of_error {e : Status} (h : parseFrame s.cfg.payloadMax s.rxq = .error e) :
    exec .desParse s = .next { s with responses := s.responses ++ [⟨e, 0#32⟩] } := by
  simp only [exec, execDesParse, h, raise, respond]

theorem exec_desParse_of_incomplete (h : s.rxq.length < frameLength (wordAt s.rxq 0).toNat) :
    exec .desParse s = .next { s with responses := s.responses ++ [⟨.truncatedInput, 0#32⟩] } :=
  exec_desParse_of_error (parseFrame_of_incomplete h)

theorem exec_desParse_of_short (h : s.rxq.length < 12) :
    exec .desParse s = .next { s with responses := s.responses ++ [⟨.truncatedInput, 0#32⟩] } :=
  exec_desParse_of_incomplete (Nat.lt_of_lt_of_le h (Nat.le_add_right ..))

theorem exec_desParse_of_crcMismatch {t : TypeCode} {p rest : List Byte} {c : Word}
    (h : s.rxq = frameBytes t p c ++ rest) (hmax : p.length ≤ s.cfg.payloadMax) (hlen : p.length < 2 ^ 32)
    (hcrc : chunkCrc t p ≠ c) :
    exec .desParse s = .next { s with responses := s.responses ++ [⟨.crcMismatch, 0#32⟩] } :=
  exec_desParse_of_error (h ▸ parseFrame_of_crcMismatch rest hmax hlen hcrc)

end

theorem wordAt_cons (b0 b1 b2 b3 : Byte) (q : List Byte) :
    wordAt (b0 :: b1 :: b2 :: b3 :: q) 0 = unbe32 b0 b1 b2 b3 := rfl

/-- Four length bytes that declare the payload's length are the length field of its frame (R43, R70). -/
theorem cons_eq_frameBytes_append {l0 l1 l2 l3 : Byte} {p : List Byte}
    (hL : p.length = (unbe32 l0 l1 l2 l3).toNat) (t0 t1 t2 t3 c0 c1 c2 c3 : Byte) (rest : List Byte) :
    l0 :: l1 :: l2 :: l3 :: t0 :: t1 :: t2 :: t3 :: (p ++ c0 :: c1 :: c2 :: c3 :: rest) =
      frameBytes ⟨t0, t1, t2, t3⟩ p (unbe32 c0 c1 c2 c3) ++ rest := by
  have hcount : countWord p.length = unbe32 l0 l1 l2 l3 := by
    rw [hL, countWord, BitVec.ofNat_toNat, BitVec.setWidth_eq]
  simp [frameBytes, hcount, be32_unbe32, TypeCode.bytes]

/-- Settles O26: the declared length decides the first two errors, and a payload of that length with the
four bytes after it makes the head of RXQ a frame, whose CRC field decides the rest. -/
theorem parseChecksInOrder : Obligations.ParseChecksInOrder := by
  unfold Obligations.ParseChecksInOrder
  refine ⟨rfl, fun s => ⟨exec_desParse_of_short, fun l0 l1 l2 l3 t0 t1 t2 t3 body L hq _ hsum => ?_⟩⟩
  have hL : L = (unbe32 l0 l1 l2 l3).toNat := by rw [hsum, unbe32_toNat]
  have hword : (wordAt s.rxq 0).toNat = L := by rw [hq, wordAt_cons, hL]
  refine ⟨fun hlt => ?_, fun hle hfull => ?_, fun p rest c0 c1 c2 c3 hbody hp hmax => ?_⟩
  · exact exec_desParse_of_incomplete (hword.symm ▸ hlt)
  · exact exec_desParse_of_error (parseFrame_of_payloadFull (hword.symm ▸ hle) (hword.symm ▸ hfull))
  · have hframe : s.rxq = frameBytes ⟨t0, t1, t2, t3⟩ p (unbe32 c0 c1 c2 c3) ++ rest := by
      rw [hq, hbody, cons_eq_frameBytes_append (hp.trans hL)]
    have hlen : p.length < 2 ^ 32 := by
      have hlt := (unbe32 l0 l1 l2 l3).isLt
      omega
    subst hp
    refine ⟨fun hcrc => ?_, fun hcrc => ?_⟩
    · exact exec_desParse_of_crcMismatch hframe hmax hlen hcrc
    · exact exec_desParse_of_frame (c := ⟨⟨t0, t1, t2, t3⟩, unbe32 c0 c1 c2 c3⟩) hframe hcrc.symm hmax hlen

/-- R5, R30: in a good state RXQ holds fewer than 2^32 bytes. -/
theorem State.Inv.rxq_length_lt {s : State} (h : s.Inv) : s.rxq.length < 2 ^ 32 := by
  obtain ⟨-, hrx, -⟩ := h.memory
  have hcfg := h.config
  simp only [Config.wf, Bool.and_eq_true, decide_eq_true_eq] at hcfg
  omega

/-- Settles O27: 12 + L is 2^32 or more, and no RXQ of a good state holds that many bytes. -/
theorem hugeLengthIsTruncated : Obligations.HugeLengthIsTruncated := by
  unfold Obligations.HugeLengthIsTruncated
  intro s l3 q hinv hq hhuge
  have hword : (wordAt s.rxq 0).toNat = 0xFFFFFF00 + l3.toNat := by
    rw [hq, wordAt_cons]
    exact unbe32_toNat 0xFF#8 0xFF#8 0xFF#8 l3
  have hrx := hinv.rxq_length_lt
  apply exec_desParse_of_incomplete
  rw [frameLength, hword]
  omega

/-- Settles O29: the CRC check is the only one that a frame which fits can fail. -/
theorem tamperedCrcFieldFails : Obligations.TamperedCrcFieldFails := by
  unfold Obligations.TamperedCrcFieldFails
  intro s t p c rest hq hmax hlen hcrc
  exact exec_desParse_of_crcMismatch hq hmax hlen hcrc.symm

/-! ### What an accepted queue begins with -/

section
variable {q : List Byte} {n : Nat}

theorem slice_four (h : n + 4 ≤ q.length) :
    slice q n 4 = [byteAt q n, byteAt q (n + 1), byteAt q (n + 2), byteAt q (n + 3)] := by
  rw [byteAt_eq_getElem (by omega), byteAt_eq_getElem (by omega), byteAt_eq_getElem (by omega),
    byteAt_eq_getElem (by omega), slice, List.drop_eq_getElem_cons (by omega),
    List.drop_eq_getElem_cons (by omega), List.drop_eq_getElem_cons (by omega),
    List.drop_eq_getElem_cons (by omega)]
  rfl

/-- The four bytes a field is read from are its big-endian bytes (R43, R47). -/
theorem be32_wordAt (h : n + 4 ≤ q.length) : be32 (wordAt q n) = slice q n 4 := by
  rw [slice_four h, wordAt, be32_unbe32]

theorem codeAt_bytes_eq_slice (h : n + 4 ≤ q.length) : (codeAt q n).bytes = slice q n 4 := (slice_four h).symm

theorem slice_append_slice (a m k : Nat) : slice q a m ++ slice q (a + m) k = slice q a (m + k) := by
  rw [slice, slice, slice, List.take_add, List.drop_drop]

end

/-- A successful parse took a frame of what it answers off the head of the queue (R70, R124). -/
theorem parseFrame_ok_frameBytes {m : Nat} {q : List Byte} {f : ParsedFrame} (h : parseFrame m q = .ok f) :
    q = frameBytes f.code f.pay f.crc ++ q.drop (frameLength f.pay.length) := by
  obtain ⟨hq, -, hlen, hcode, hpay, hcrc, -⟩ := parseFrame_ok h
  rw [← hlen] at hq hpay hcrc
  rw [frameLength] at hq
  have hcount : countWord f.pay.length = wordAt q 0 := by
    rw [hlen, countWord, BitVec.ofNat_toNat, BitVec.setWidth_eq]
  have hframe : frameBytes f.code f.pay f.crc = slice q 0 (frameLength f.pay.length) :=
    calc frameBytes f.code f.pay f.crc
      _ = slice q 0 4 ++ slice q 4 4 ++ slice q 8 f.pay.length ++ slice q (8 + f.pay.length) 4 := by
        rw [frameBytes, hcount, be32_wordAt (by omega), hcode, codeAt_bytes_eq_slice (by omega), ← hpay, hcrc,
          be32_wordAt (by omega)]
      _ = slice q 0 (8 + f.pay.length + 4) := by
        rw [slice_append_slice 0 4, slice_append_slice 0 8, ← slice_append_slice 0 (8 + f.pay.length) 4,
          Nat.zero_add]
      _ = slice q 0 (frameLength f.pay.length) := by
        rw [frameLength]
        congr 1
        omega
  rw [hframe, slice, List.drop_zero, List.take_append_drop]

/-- All that DES.PARSE can do (R124): an error that writes nothing, or the frame at the head of RXQ loaded
and taken off. -/
theorem exec_desParse_cases {s t : State} (h : exec .desParse s = .next t) :
    (∃ e, e ≠ .ok ∧ t = { s with responses := s.responses ++ [⟨e, 0#32⟩] }) ∨
    ∃ c p rest, s.rxq = frameBytes c.code p c.crc ++ rest ∧
      t = { s with pay := p, chunk := some c, rxq := rest,
                   responses := s.responses ++ [⟨.ok, countWord (frameLength p.length)⟩] } := by
  cases hparse : parseFrame s.cfg.payloadMax s.rxq with
  | error e =>
    rw [exec_desParse_of_error hparse] at h
    cases h
    refine .inl ⟨e, ?_, rfl⟩
    rcases parseFrame_error hparse with ⟨rfl, -⟩ | ⟨rfl, -⟩ | ⟨rfl, -⟩ <;> decide
  | ok f =>
    simp only [exec, execDesParse, hparse] at h
    cases h
    exact .inr ⟨⟨f.code, f.crc⟩, f.pay, s.rxq.drop (frameLength f.pay.length),
      parseFrame_ok_frameBytes hparse, rfl⟩

/-- Settles O32: what DES.PARSE took off RXQ is the frame of what it loaded, and SER.EMIT appends that frame. -/
theorem parseThenSerializeRestoresBytes : Obligations.ParseThenSerializeRestoresBytes := by
  unfold Obligations.ParseThenSerializeRestoresBytes
  intro s t v hexec hok
  rcases exec_desParse_cases hexec with ⟨e, he, rfl⟩ | ⟨c, p, rest, hq, rfl⟩
  · obtain ⟨hstatus, -⟩ : e = .ok ∧ 0#32 = v := by simpa using hok
    exact absurd hstatus he
  · have hflen : (frameBytes c.code p c.crc).length = frameLength p.length := frameBytes_length ..
    refine ⟨frameBytes c.code p c.crc, hq, hflen, fun hroom => ?_⟩
    rw [hflen] at hroom ⊢
    exact exec_serEmit_of_room rfl hroom

end Sys2Proof.Machine
end

section
/-! Corrupted frames (spec/40_crc32.md R88, spec/43_deserializer.md R127): the CRC register keeps every
single-byte difference, so a frame with one byte of its type code, payload or CRC field changed is a frame
whose CRC field is wrong. -/

namespace Sys2Proof.Machine

/-! ### The register forgets nothing -/

/-- The constant's top bit is 1, so the top bit after an iteration is the bit that was shifted out, and the
iteration can be undone (R80). -/
theorem crcShift_injective : Function.Injective crcShift := by
  intro r u h
  have hbit (i : Nat) :
      (r.getLsbD (i + 1) ^^ (r.getLsbD 0 && crcPoly.getLsbD i)) =
        (u.getLsbD (i + 1) ^^ (u.getLsbD 0 && crcPoly.getLsbD i)) := by
    rw [← crcShift_getLsbD, ← crcShift_getLsbD, h]
  have hlow : r.getLsbD 0 = u.getLsbD 0 := by
    have htop : crcPoly.getLsbD 31 = true := by decide
    have habove (x : Word) : x.getLsbD (31 + 1) = false := BitVec.getLsbD_of_ge x (31 + 1) (Nat.le_refl 32)
    simpa only [htop, habove, Bool.and_true, Bool.false_xor] using hbit 31
  apply BitVec.eq_of_getLsbD_eq
  intro i _
  cases i with
  | zero => exact hlow
  | succ i => simpa only [hlow, Bool.xor_left_inj] using hbit i

theorem crcStep_injective_register (b : Byte) : Function.Injective (crcStep · b) := fun _ _ h =>
  (BitVec.xor_left_inj _).mp (crcShift_injective.iterate 8 h)

theorem crcStep_injective_byte (c : Word) : Function.Injective (crcStep c) := by
  intro b d h
  have hzext : zext32 b = zext32 d := (BitVec.xor_right_inj c).mp (crcShift_injective.iterate 8 h)
  simpa [zext32, BitVec.setWidth_setWidth] using congrArg (BitVec.setWidth 8) hzext

theorem crcFold_injective (bs : List Byte) : Function.Injective (crcFold · bs) := by
  induction bs with
  | nil => exact fun _ _ h => h
  | cons b bs ih => exact ih.comp (crcStep_injective_register b)

/-- Changing one byte of a sequence changes its CRC-32 (R88). -/
theorem crc32_modify_ne {bs : List Byte} {i : Nat} (hi : i < bs.length) {g : Byte → Byte} (hg : ∀ b, g b ≠ b) :
    crc32 (bs.modify i g) ≠ crc32 bs := by
  intro h
  have hraw : crcRaw (bs.modify i g) = crcRaw bs := (BitVec.xor_left_inj crcFinalXor).mp h
  have hsplit : bs = bs.take i ++ bs[i] :: bs.drop (i + 1) := by
    rw [← List.drop_eq_getElem_cons hi, List.take_append_drop]
  rw [List.modify_eq_take_cons_drop hi, crcRaw_append, crcFold_cons] at hraw
  conv at hraw => rhs; rw [hsplit, crcRaw_append, crcFold_cons]
  exact hg _ (crcStep_injective_byte _ (crcFold_injective _ hraw))

/-! ### A frame with one byte changed -/

theorem modify_append_of_lt {l r : List Byte} {i : Nat} (hi : i < l.length) (g : Byte → Byte) :
    (l ++ r).modify i g = l.modify i g ++ r := by
  rw [List.modify_eq_take_cons_drop (by rw [List.length_append]; omega), List.modify_eq_take_cons_drop hi,
    List.getElem_append_left hi, List.take_append_of_le_length (by omega),
    List.drop_append_of_le_length (by omega), List.append_assoc, List.cons_append]

theorem modify_append_length_add (l r : List Byte) (i : Nat) (g : Byte → Byte) :
    (l ++ r).modify (l.length + i) g = l ++ r.modify i g :=
  List.modifyTailIdx_add (List.modifyHead g) i l r

theorem modify_ne_self {l : List Byte} {i : Nat} (hi : i < l.length) {g : Byte → Byte} (hg : ∀ b, g b ≠ b) :
    l.modify i g ≠ l := by
  intro h
  have hget := List.getElem_modify_eq g i l (by rwa [List.length_modify])
  simp only [h] at hget
  exact hg _ hget.symm

/-- Four or more bytes are a type code and what follows it (R44). -/
theorem exists_bytes_append_eq {bs : List Byte} {n : Nat} (h : bs.length = 4 + n) :
    ∃ (t : TypeCode) (p : List Byte), bs = t.bytes ++ p ∧ p.length = n :=
  ⟨codeAt bs 0, bs.drop 4,
    by rw [codeAt_bytes_eq_slice (by omega), slice, List.drop_zero, List.take_append_drop],
    by rw [List.length_drop]; omega⟩

/-- Four bytes are the big-endian form of a word (R43). -/
theorem exists_be32_eq {bs : List Byte} (h : bs.length = 4) : ∃ c : Word, bs = be32 c :=
  ⟨wordAt bs 0, by rw [be32_wordAt (by omega), slice, List.drop_zero, ← h, List.take_length]⟩

/-- A valid frame with one byte after its length field changed is a frame of the same length whose CRC field
is wrong (R88, R127). -/
theorem exists_frameBytes_of_modify (t : TypeCode) (p : List Byte) {i : Nat} (hi : 4 ≤ i)
    (hlt : i < (frameBytes t p (chunkCrc t p)).length) {g : Byte → Byte} (hg : ∀ b, g b ≠ b) :
    ∃ (t' : TypeCode) (p' : List Byte) (c' : Word),
      (frameBytes t p (chunkCrc t p)).modify i g = frameBytes t' p' c' ∧ p'.length = p.length ∧
      chunkCrc t' p' ≠ c' := by
  have hassoc (t : TypeCode) (p : List Byte) (c : Word) :
      frameBytes t p c = be32 (countWord p.length) ++ ((t.bytes ++ p) ++ be32 c) := by
    simp only [frameBytes, List.append_assoc]
  have hcovered : (t.bytes ++ p).length = 4 + p.length := List.length_append
  obtain ⟨j, rfl⟩ : ∃ j, i = (be32 (countWord p.length)).length + j := ⟨i - 4, by rw [be32_length]; omega⟩
  rw [frameBytes_length, frameLength, be32_length] at hlt
  rw [hassoc, modify_append_length_add]
  by_cases hj : j < (t.bytes ++ p).length
  · obtain ⟨t', p', hbytes, hlen⟩ := exists_bytes_append_eq (bs := (t.bytes ++ p).modify j g)
      ((List.length_modify ..).trans hcovered)
    refine ⟨t', p', chunkCrc t p, ?_, hlen, ?_⟩
    · rw [modify_append_of_lt hj, hbytes, hassoc, hlen]
    · rw [chunkCrc, ← hbytes]
      exact crc32_modify_ne hj hg
  · obtain ⟨k, rfl⟩ : ∃ k, j = (t.bytes ++ p).length + k := ⟨j - (t.bytes ++ p).length, by omega⟩
    have hk : k < (be32 (chunkCrc t p)).length := by rw [be32_length]; omega
    obtain ⟨c', hc'⟩ := exists_be32_eq (bs := (be32 (chunkCrc t p)).modify k g) (List.length_modify ..)
    refine ⟨t, p, c', ?_, rfl, fun heq => ?_⟩
    · rw [modify_append_length_add, hc', hassoc]
    · exact modify_ne_self hk hg (hc'.trans (congrArg be32 heq.symm))

theorem xor_shifted_bit_ne {k : Nat} (hk : k < 8) (b : Byte) : b ^^^ (1#8 <<< k) ≠ b := by
  have hbit : ∀ k < 8, 1#8 <<< k ≠ 0#8 := by decide
  intro h
  exact hbit k hk ((BitVec.xor_right_inj b).mp (h.trans BitVec.xor_zero.symm))

/-- Settles O30: the corrupted frame is a frame of the same length with a wrong CRC field. -/
theorem singleBitCorruptionIsDetected : Obligations.SingleBitCorruptionIsDetected := by
  unfold Obligations.SingleBitCorruptionIsDetected
  intro s t p f rest i k hf hmax hlen hi hlt hk hq
  have hframe : f = frameBytes t p (chunkCrc t p) := hf
  subst hframe
  obtain ⟨t', p', c', hbytes, hplen, hcrc⟩ :=
    exists_frameBytes_of_modify t p hi hlt (xor_shifted_bit_ne hk)
  rw [hbytes] at hq
  exact exec_desParse_of_crcMismatch hq (hplen ▸ hmax) (hplen ▸ hlen) hcrc

end Sys2Proof.Machine
end

section
/-! Streams of frames (spec/43_deserializer.md R126). Both runs are followed by induction from the last
frame, so that what the last DES.PARSE leaves is in sight at the end. -/

namespace Sys2Proof.Machine

theorem runInstrs_singleton {i : Instr} {s t : State} (h : exec i s = .next t) : runInstrs [i] s = .next t :=
  (runInstrs_cons_of_next [] h).trans (runInstrs_nil t)

theorem runInstrs_append_of_next {is : List Instr} {s t : State} (js : List Instr)
    (h : runInstrs is s = .next t) : runInstrs (is ++ js) s = runInstrs js t := by
  induction is generalizing s with
  | nil =>
    cases h
    rfl
  | cons i is ih =>
    rw [runInstrs] at h
    rw [List.cons_append, runInstrs]
    split at h
    next u _ => exact ih h
    next => cases h
    next => cases h

/-- The frame of a type code and a payload with the CRC of the two (R70, R72). -/
def validFrame (p : TypeCode × List Byte) : List Byte := frameBytes p.1 p.2 (chunkCrc p.1 p.2)

/-- Each payload fits the store and its length field (R5, R70). -/
def AllFit (cfg : Config) (chunks : List (TypeCode × List Byte)) : Prop :=
  ∀ p ∈ chunks, p.2.length ≤ cfg.payloadMax ∧ p.2.length < 2 ^ 32

theorem allFit_append_singleton {cfg : Config} {chunks : List (TypeCode × List Byte)}
    {p : TypeCode × List Byte} :
    AllFit cfg (chunks ++ [p]) ↔ AllFit cfg chunks ∧ p.2.length ≤ cfg.payloadMax ∧ p.2.length < 2 ^ 32 := by
  simp only [AllFit, List.forall_mem_append, List.forall_mem_singleton]

theorem flatMap_validFrame_append (chunks : List (TypeCode × List Byte)) (p : TypeCode × List Byte)
    (tail : List Byte) :
    (chunks ++ [p]).flatMap validFrame ++ tail = chunks.flatMap validFrame ++ (validFrame p ++ tail) := by
  rw [List.flatMap_append, List.flatMap_singleton, List.append_assoc]

theorem exec_desParse_of_validFrame {s : State} {p : TypeCode × List Byte} {tail : List Byte}
    (h : s.rxq = validFrame p ++ tail) (hmax : p.2.length ≤ s.cfg.payloadMax) (hlen : p.2.length < 2 ^ 32) :
    exec .desParse s =
      .next { s with pay := p.2, chunk := some ⟨p.1, chunkCrc p.1 p.2⟩, rxq := tail,
                     responses := s.responses ++ [⟨.ok, countWord (frameLength p.2.length)⟩] } :=
  exec_desParse_of_frame (c := ⟨p.1, chunkCrc p.1 p.2⟩) h rfl hmax hlen

/-- One DES.PARSE per frame takes the frames off in order, answers their lengths and leaves the last chunk
in the slot (R126). -/
theorem runInstrs_desParses (chunks : List (TypeCode × List Byte)) (s : State) (tail : List Byte)
    (hq : s.rxq = chunks.flatMap validFrame ++ tail) (hfit : AllFit s.cfg chunks) :
    ∃ t : State, runInstrs (List.replicate chunks.length .desParse) s = .next t ∧
      t.cfg = s.cfg ∧ t.rxq = tail ∧
      t.responses = s.responses ++ chunks.map (fun p => ⟨.ok, countWord (frameLength p.2.length)⟩) ∧
      ∀ p, chunks.getLast? = some p → t.pay = p.2 ∧ t.chunk = some ⟨p.1, chunkCrc p.1 p.2⟩ := by
  induction chunks using List.reverseRecOn generalizing tail with
  | nil => exact ⟨s, rfl, rfl, hq, (List.append_nil _).symm, fun p hp => by cases hp⟩
  | append_singleton chunks p ih =>
    obtain ⟨hinit, hmax, hlen⟩ := allFit_append_singleton.mp hfit
    rw [flatMap_validFrame_append] at hq
    obtain ⟨u, hrun, hcfg, hu, hresp, -⟩ := ih _ hq hinit
    have hparse := exec_desParse_of_validFrame hu (hcfg ▸ hmax) hlen
    have hlast : runInstrs (List.replicate (chunks ++ [p]).length .desParse) s = runInstrs [.desParse] u := by
      rw [List.length_append, List.length_singleton, List.replicate_succ', runInstrs_append_of_next _ hrun]
    refine ⟨_, hlast.trans (runInstrs_singleton hparse), hcfg, rfl, ?_, fun r hr => ?_⟩
    · simp [hresp]
    · rw [List.getLast?_concat] at hr
      cases hr
      exact ⟨rfl, rfl⟩

/-- DES.PARSE and then SER.EMIT per frame move the frames from RXQ to TXQ byte for byte (R125, R126). -/
theorem runInstrs_desParse_serEmits (chunks : List (TypeCode × List Byte)) (s : State) (tail : List Byte)
    (hq : s.rxq = chunks.flatMap validFrame ++ tail) (hfit : AllFit s.cfg chunks)
    (hroom : s.txq.length + (chunks.flatMap validFrame).length ≤ s.cfg.txMax) :
    ∃ t : State, runInstrs (List.replicate chunks.length [.desParse, .serEmit]).flatten s = .next t ∧
      t.cfg = s.cfg ∧ t.rxq = tail ∧ t.txq = s.txq ++ chunks.flatMap validFrame := by
  induction chunks using List.reverseRecOn generalizing tail with
  | nil => exact ⟨s, rfl, rfl, hq, (List.append_nil _).symm⟩
  | append_singleton chunks p ih =>
    obtain ⟨hinit, hmax, hlen⟩ := allFit_append_singleton.mp hfit
    rw [flatMap_validFrame_append] at hq
    rw [List.flatMap_append, List.flatMap_singleton] at hroom ⊢
    rw [List.length_append] at hroom
    obtain ⟨u, hrun, hcfg, hu, htx⟩ := ih _ hq hinit (by omega)
    have hemit : u.txq.length + frameLength p.2.length ≤ u.cfg.txMax := by
      have hplen : (validFrame p).length = frameLength p.2.length := frameBytes_length ..
      rw [htx, hcfg, List.length_append]
      omega
    have hparse := exec_desParse_of_validFrame hu (hcfg ▸ hmax) hlen
    have hlast : runInstrs (List.replicate (chunks ++ [p]).length [.desParse, .serEmit]).flatten s =
        runInstrs [.desParse, .serEmit] u := by
      rw [List.length_append, List.length_singleton, List.replicate_succ', List.flatten_append,
        List.flatten_singleton, runInstrs_append_of_next _ hrun]
    refine ⟨_, (hlast.trans (runInstrs_cons_of_next _ hparse)).trans
      (runInstrs_singleton (exec_serEmit_of_room rfl hemit)), hcfg, rfl, ?_⟩
    simp [htx, validFrame]

/-- Settles O33: the two runs over the frames, and the short tail that the first one leaves in RXQ. -/
theorem streamOfFramesParsesInOrder : Obligations.StreamOfFramesParsesInOrder := by
  unfold Obligations.StreamOfFramesParsesInOrder
  intro s chunks frames tail hframes hq hfit
  have hvalid : frames = chunks.flatMap validFrame := hframes
  subst hvalid
  constructor
  · obtain ⟨t, hrun, -, ht, hresp, hlast⟩ := runInstrs_desParses chunks s tail hq hfit
    exact ⟨t, hrun, ht, hresp, hlast, fun hshort => exec_desParse_of_short (ht ▸ hshort)⟩
  · intro hroom
    obtain ⟨t, hrun, -, ht, htx⟩ := runInstrs_desParse_serEmits chunks s tail hq hfit hroom
    exact ⟨t, hrun, ht, htx⟩

end Sys2Proof.Machine
end

section
/-! The flags of a type code (spec/44_type_flags.md R131, R132): what each bit of TYP.FLAGS' value says of
the four bytes. -/

namespace Sys2Proof.Machine

theorem flagAt_getLsbD (f : Bool) {i : Nat} (hi : i < 32) (j : Nat) :
    (flagAt f i).getLsbD j = (decide (j = i) && f) := by
  cases f with
  | false => simp [flagAt]
  | true => simp [flagAt, ← BitVec.twoPow_eq, BitVec.getLsbD_twoPow, hi, eq_comm]

/-- Every bit of TYP.FLAGS' value at once: each flag at its own bit, no other bit set (R131). -/
theorem typeFlags_getLsbD (t : TypeCode) (j : Nat) :
    (typeFlags t).getLsbD j =
      (decide (j = 0) && flagCritical t || decide (j = 1) && flagPublic t ||
        decide (j = 2) && flagReservedValid t || decide (j = 3) && flagSafeToCopy t ||
        decide (j = 4) && flagValid t || decide (j = 5) && flagAlpha t) := by
  simp [typeFlags, flagAt_getLsbD]

theorem typeFlags_bits (t : TypeCode) :
    (typeFlags t).getLsbD 0 = flagCritical t ∧ (typeFlags t).getLsbD 1 = flagPublic t ∧
    (typeFlags t).getLsbD 2 = flagReservedValid t ∧ (typeFlags t).getLsbD 3 = flagSafeToCopy t ∧
    (typeFlags t).getLsbD 4 = flagValid t ∧ (typeFlags t).getLsbD 5 = flagAlpha t := by
  simp only [typeFlags_getLsbD]
  simp

theorem typeFlags_getLsbD_of_ge (t : TypeCode) {j : Nat} (hj : 6 ≤ j) :
    (typeFlags t).getLsbD j = false := by
  have hne : ∀ i < 6, j ≠ i := by omega
  simp [typeFlags_getLsbD, hne]

theorem bit5_extractLsb' (w : Word) (k : Nat) : bit5 (w.extractLsb' k 8) = w.getLsbD (k + 5) := by
  simp [bit5]

theorem flagCritical_ofWord (w : Word) : flagCritical (TypeCode.ofWord w) = !w.getLsbD 29 :=
  congrArg not (bit5_extractLsb' w 24)

theorem flagPublic_ofWord (w : Word) : flagPublic (TypeCode.ofWord w) = !w.getLsbD 21 :=
  congrArg not (bit5_extractLsb' w 16)

theorem flagReservedValid_ofWord (w : Word) : flagReservedValid (TypeCode.ofWord w) = !w.getLsbD 13 :=
  congrArg not (bit5_extractLsb' w 8)

theorem flagSafeToCopy_ofWord (w : Word) : flagSafeToCopy (TypeCode.ofWord w) = w.getLsbD 5 :=
  bit5_extractLsb' w 0

theorem isLetter_iff (b : Byte) :
    isLetter b = true ↔ (0x41 ≤ b.toNat ∧ b.toNat ≤ 0x5A) ∨ (0x61 ≤ b.toNat ∧ b.toNat ≤ 0x7A) := by
  simp only [isLetter, Bool.or_eq_true, Bool.and_eq_true, decide_eq_true_eq]

theorem flagAlpha_iff (t : TypeCode) : flagAlpha t = true ↔ ∀ b ∈ t.bytes, isLetter b = true := by
  simp [flagAlpha, TypeCode.bytes, and_assoc]

theorem flagAlpha_ofWord_iff (w : Word) :
    flagAlpha (TypeCode.ofWord w) = true ↔
      ∀ b ∈ be32 w, (0x41 ≤ b.toNat ∧ b.toNat ≤ 0x5A) ∨ (0x61 ≤ b.toNat ∧ b.toNat ≤ 0x7A) := by
  simp only [flagAlpha_iff, isLetter_iff]
  rfl

/-- Settles O34: the answer is `typeFlags` of the operand's type code, read bit by bit. -/
theorem typeFlagBits : Obligations.TypeFlagBits := by
  unfold Obligations.TypeFlagBits
  refine ⟨fun _ => rfl, fun w => ⟨typeFlags (TypeCode.ofWord w),
    fun s => (typFlags_onlyAnswers s w).exec_eq, ?_⟩⟩
  obtain ⟨hcritical, hpublic, hreserved, hsafe, hvalid, halpha⟩ := typeFlags_bits (TypeCode.ofWord w)
  exact ⟨hcritical.trans (flagCritical_ofWord w), hpublic.trans (flagPublic_ofWord w),
    hreserved.trans (flagReservedValid_ofWord w), hsafe.trans (flagSafeToCopy_ofWord w),
    -- VALID is by definition RESERVED_VALID
    hvalid.trans hreserved.symm,
    halpha ▸ flagAlpha_ofWord_iff w, fun _ => typeFlags_getLsbD_of_ge _⟩

end Sys2Proof.Machine
end

section
/-! System commands (spec/45_system.md R140, R141): SYS.NOP only answers, and SYS.RST is the reset that the
host applies between two commands (R170) plus one response. -/

namespace Sys2Proof.Machine

theorem sysNop_onlyAnswers (s : State) : OnlyAnswers .sysNop s ⟨.ok, 0#32⟩ := fun _ => rfl

theorem exec_sysRst (s : State) :
    exec .sysRst s = .next
      { s with crcacc := 0xFFFFFFFF#32, pay := [], chunk := none, rxq := [], txq := [],
               responses := s.responses ++ [⟨.ok, 0#32⟩] } := rfl

/-- R170's reset is one step, whatever the block holds. -/
theorem step_of_reset {s : State} {rest : List HostMove} (hport : s.port = .reset :: rest) :
    step s = .next (resetBlock { s with port := rest }) := by
  simp only [step, nextMove_cons s _ rest hport, hardwareReset]

/-- The reset value of CRCACC and the final XOR cancel (R86, R141). -/
theorem crcRd_onlyAnswers_zero {s : State} (h : s.crcacc = 0xFFFFFFFF#32) :
    OnlyAnswers .crcRd s ⟨.ok, 0#32⟩ := by
  have hread := crcRd_onlyAnswers s
  rwa [h, crcFinalXor, BitVec.xor_self] at hread

theorem runInstrs_sysRst_crcRd (s : State) :
    runInstrs [.sysRst, .crcRd] s = .next
      { s with crcacc := 0xFFFFFFFF#32, pay := [], chunk := none, rxq := [], txq := [],
               responses := s.responses ++ [⟨.ok, 0#32⟩, ⟨.ok, 0#32⟩] } := by
  rw [runInstrs_cons_of_next _ (exec_sysRst s), runInstrs_singleton (crcRd_onlyAnswers_zero rfl).exec_eq,
    List.append_assoc, List.singleton_append]

/-- SYS.RST answers from the very state that the host's reset leaves (R141, R170). -/
theorem exec_sysRst_of_step_reset {s u : State} {rest : List HostMove} (hport : s.port = .reset :: rest)
    (hstep : step s = .next u) :
    exec .sysRst { s with port := rest } = .next { u with responses := u.responses ++ [⟨.ok, 0#32⟩] } := by
  rw [step_of_reset hport] at hstep
  cases hstep
  exact exec_sysRst _

/-- Settles O7: SYS.NOP is one response, and SYS.RST one reset of the block followed by one response. -/
theorem nopAndResetCommands : Obligations.NopAndResetCommands := by
  unfold Obligations.NopAndResetCommands
  exact ⟨rfl, rfl, fun s => ⟨(sysNop_onlyAnswers s).exec_eq, exec_sysRst s, runInstrs_sysRst_crcRd s,
    fun _ _ => exec_sysRst_of_step_reset⟩⟩

end Sys2Proof.Machine
end

section
/-! Errors (spec/60_exceptions.md R150 to R152): a command answers an error and writes nothing, or answers
OK; and no command reads the responses delivered before it (R23). -/

namespace Sys2Proof.Machine

/-- In `s` the command answers `r` and leaves the block as in `u`, whatever the host has received before. -/
def Performs (i : Instr) (s u : State) (r : Response) : Prop :=
  ∀ rs : List Response, exec i { s with responses := rs } = .next { u with responses := rs ++ [r] }

/-- R151, R152: in `s` the command answers an error with the value 0 and does nothing else, or it answers OK. -/
def FailsOrSucceeds (i : Instr) (s : State) : Prop :=
  (∃ e, e ≠ .ok ∧ OnlyAnswers i s ⟨e, 0#32⟩) ∨ ∃ u v, Performs i s u ⟨.ok, v⟩

section
variable {i : Instr} {s u : State} {r : Response}

theorem OnlyAnswers.performs (h : OnlyAnswers i s r) : Performs i s s r := h

theorem Performs.exec_eq (h : Performs i s u r) :
    exec i s = .next { u with responses := s.responses ++ [r] } := h s.responses

theorem OnlyAnswers.failsOrSucceeds_of_ok {v : Word} (h : OnlyAnswers i s ⟨.ok, v⟩) : FailsOrSucceeds i s :=
  .inr ⟨s, v, h.performs⟩

end

/-! ### The commands that can fail -/

section
variable (s : State)

theorem chPush_failsOrSucceeds (b : Byte) : FailsOrSucceeds (.chPush b) s := by
  cases h : s.chunk with
  | some c => exact .inl ⟨.sealed, by decide, fun _ => exec_chPush_of_sealed b h⟩
  | none =>
    by_cases hfull : s.pay.length = s.cfg.payloadMax
    · exact .inl ⟨.payloadFull, by decide, fun _ => exec_chPush_of_full b h hfull⟩
    · exact .inr ⟨stageByte b s, _, fun _ => exec_chPush_of_room b h hfull⟩

theorem chRdtype_failsOrSucceeds : FailsOrSucceeds .chRdtype s := by
  cases h : s.chunk with
  | none => exact .inl ⟨.notSealed, by decide, chRdtype_onlyAnswers_of_none h⟩
  | some c => exact (chRdtype_onlyAnswers_of_some h).failsOrSucceeds_of_ok

theorem chRdcrc_failsOrSucceeds : FailsOrSucceeds .chRdcrc s := by
  cases h : s.chunk with
  | none => exact .inl ⟨.notSealed, by decide, chRdcrc_onlyAnswers_of_none h⟩
  | some c => exact (chRdcrc_onlyAnswers_of_some h).failsOrSucceeds_of_ok

theorem chRdpay_failsOrSucceeds (w : Word) : FailsOrSucceeds (.chRdpay w) s := by
  cases h : s.pay[w.toNat]? with
  | none => exact .inl ⟨.indexRange, by decide, chRdpay_onlyAnswers_of_none h⟩
  | some b => exact (chRdpay_onlyAnswers_of_some h).failsOrSucceeds_of_ok

theorem serEmit_failsOrSucceeds : FailsOrSucceeds .serEmit s := by
  cases h : s.chunk with
  | none => exact .inl ⟨.notSealed, by decide, fun _ => exec_serEmit_of_none h⟩
  | some c =>
    rcases Nat.lt_or_ge s.cfg.txMax (s.txq.length + frameLength s.pay.length) with hfull | hroom
    · exact .inl ⟨.txFull, by decide, fun _ => exec_serEmit_of_full h hfull⟩
    · exact .inr ⟨enqueueTx (frameBytes c.code s.pay c.crc) s, countWord (frameLength s.pay.length),
        fun _ => exec_serEmit_of_room h hroom⟩

theorem txPop_failsOrSucceeds : FailsOrSucceeds .txPop s := by
  cases h : s.txq with
  | nil => exact .inl ⟨.txEmpty, by decide, fun _ => exec_txPop_of_nil h⟩
  | cons b q => exact .inr ⟨{ s with txq := q }, _, fun _ => exec_txPop_of_cons h⟩

theorem rxPush_failsOrSucceeds (b : Byte) : FailsOrSucceeds (.rxPush b) s := by
  by_cases hfull : s.rxq.length = s.cfg.rxMax
  · exact .inl ⟨.rxFull, by decide, fun _ => exec_rxPush_of_full b hfull⟩
  · exact .inr ⟨enqueueRx [b] s, _, fun _ => exec_rxPush_of_room b hfull⟩

theorem parseFrame_error_ne_ok {m : Nat} {q : List Byte} {e : Status} (h : parseFrame m q = .error e) :
    e ≠ .ok := by
  rcases parseFrame_error h with ⟨rfl, -⟩ | ⟨rfl, -⟩ | ⟨rfl, -⟩ <;> decide

theorem exec_desParse_of_ok {s : State} {f : ParsedFrame} (h : parseFrame s.cfg.payloadMax s.rxq = .ok f) :
    exec .desParse s = .next (respond .ok (countWord (frameLength f.pay.length)) (loadFrame f s)) := by
  simp only [exec, execDesParse, h]

theorem desParse_failsOrSucceeds : FailsOrSucceeds .desParse s := by
  cases h : parseFrame s.cfg.payloadMax s.rxq with
  | error e => exact .inl ⟨e, parseFrame_error_ne_ok h, fun _ => exec_desParse_of_error h⟩
  | ok f => exact .inr ⟨loadFrame f s, _, fun _ => exec_desParse_of_ok h⟩

/-- All that a command can do (R150 to R152). -/
theorem exec_failsOrSucceeds (i : Instr) : FailsOrSucceeds i s := by
  cases i with
  | sysNop => exact (sysNop_onlyAnswers s).failsOrSucceeds_of_ok
  | sysRst => exact .inr ⟨resetBlock s, _, fun _ => exec_sysRst _⟩
  | crcInit => exact .inr ⟨setCrcacc crcInitial s, _, fun _ => exec_crcInit _⟩
  | crcUpd b => exact .inr ⟨setCrcacc (crcStep s.crcacc b) s, _, fun _ => exec_crcUpd _ b⟩
  | crcRd => exact (crcRd_onlyAnswers s).failsOrSucceeds_of_ok
  | chClr => exact .inr ⟨clearSlot s, _, fun _ => exec_chClr _⟩
  | chPush b => exact chPush_failsOrSucceeds s b
  | chNew w =>
    exact .inr ⟨sealSlot (TypeCode.ofWord w) (chunkCrc (TypeCode.ofWord w) s.pay) s,
      chunkCrc (TypeCode.ofWord w) s.pay, fun _ => exec_chNew _ w⟩
  | chStat => exact (chStat_onlyAnswers s).failsOrSucceeds_of_ok
  | chRdlen => exact (chRdlen_onlyAnswers s).failsOrSucceeds_of_ok
  | chRdtype => exact chRdtype_failsOrSucceeds s
  | chRdcrc => exact chRdcrc_failsOrSucceeds s
  | chRdpay w => exact chRdpay_failsOrSucceeds s w
  | serEmit => exact serEmit_failsOrSucceeds s
  | txPop => exact txPop_failsOrSucceeds s
  | txCnt => exact (txCnt_onlyAnswers s).failsOrSucceeds_of_ok
  | txFlush => exact .inr ⟨{ s with txq := [] }, _, fun _ => exec_txFlush _⟩
  | rxPush b => exact rxPush_failsOrSucceeds s b
  | rxCnt => exact (rxCnt_onlyAnswers s).failsOrSucceeds_of_ok
  | rxFlush => exact .inr ⟨{ s with rxq := [] }, _, fun _ => exec_rxFlush _⟩
  | desParse => exact desParse_failsOrSucceeds s
  | typFlags w => exact (typFlags_onlyAnswers s w).failsOrSucceeds_of_ok

end

/-! ### What a failed command leaves for the next one -/

theorem exists_performs (i : Instr) (s : State) : ∃ u r, Performs i s u r := by
  rcases exec_failsOrSucceeds s i with ⟨e, -, h⟩ | ⟨u, v, h⟩
  · exact ⟨s, _, h.performs⟩
  · exact ⟨u, _, h⟩

section
variable {s u : State} {r : Response}

/-- What a command does with the responses delivered so far it does with any others (R23). -/
theorem performs_of_exec {i : Instr} (h : exec i s = .next u) (hr : u.responses = s.responses ++ [r]) :
    Performs i s u r := by
  obtain ⟨u', r', h'⟩ := exists_performs i s
  rw [h'.exec_eq] at h
  cases h
  obtain rfl : r' = r := by simpa using hr
  exact h'

theorem step_of_decode_ok {cw : CommandWord} {rest : List HostMove} {i : Instr}
    (hport : s.port = .issue cw :: rest) (hdec : decode cw = .ok i) :
    step s = exec i { s with port := rest } := by
  simp only [step, nextMove_cons s _ rest hport, hdec]

/-- All that a step on a command word can do: an error, with only the word taken and the response added, or
OK (R152). -/
theorem step_of_issue_cases {cw : CommandWord} {rest : List HostMove} (hport : s.port = .issue cw :: rest) :
    (∃ e : Status, e ≠ .ok ∧ step s = .next { s with port := rest, responses := s.responses ++ [⟨e, 0#32⟩] }) ∨
    ∃ (u : State) (v : Word), step s = .next { u with responses := s.responses ++ [⟨.ok, v⟩] } := by
  cases hdec : decode cw with
  | error why => exact .inl ⟨.illegalCommand, by decide, step_of_decode_error hport hdec⟩
  | ok i =>
    rw [step_of_decode_ok hport hdec]
    rcases exec_failsOrSucceeds { s with port := rest } i with ⟨e, he, h⟩ | ⟨u, v, h⟩
    · exact .inl ⟨e, he, h.exec_eq⟩
    · exact .inr ⟨u, v, h.exec_eq⟩

end

/-- Settles O46: a step that does not answer OK has only added its response, and the next command does not
read that response. -/
theorem errorChangesNothing : Obligations.ErrorChangesNothing := by
  unfold Obligations.ErrorChangesNothing
  intro s t cw rest r hport hstep hresp hne
  rcases step_of_issue_cases hport with ⟨e, -, herr⟩ | ⟨u, v, hok⟩
  · rw [herr] at hstep
    cases hstep
    obtain rfl : ⟨e, 0#32⟩ = r := by simpa using hresp
    refine ⟨rfl, rfl, fun i u q hexec hq => ?_⟩
    have hnext := performs_of_exec hexec hq (s.responses ++ [⟨e, 0#32⟩])
    rwa [List.append_assoc] at hnext
  · rw [hok] at hstep
    cases hstep
    obtain rfl : ⟨.ok, v⟩ = r := by simpa using hresp
    exact absurd rfl hne

end Sys2Proof.Machine
end

section
/-! Reset between two commands (spec/70_reset_and_hazards.md R170). -/

namespace Sys2Proof.Machine

/-- Settles O38: the step takes the host's move and applies `resetBlock` to what is left, and `resetBlock`
writes each of the block's items and nothing else, so the responses stand as they were. -/
theorem hostResetRestoresResetState : Obligations.HostResetRestoresResetState := by
  unfold Obligations.HostResetRestoresResetState
  intro s rest hport
  rw [step_of_reset hport, resetBlock]

end Sys2Proof.Machine
end

section
/-! Command words (spec/30_encoding.md R60 to R66): decoding the word of a command gives the command back,
a word that decodes is its command's own word, and the decoder accepts exactly the words that match a row. -/

namespace Sys2Proof

/-! ### The word of a command decodes to it -/

theorem byteOperand_setWidth (b : Byte) (i : Byte → Instr) : byteOperand (b.setWidth 32) i = .ok (i b) := by
  have hreserved : (b.setWidth 32).extractLsb' 8 24 = 0#24 := by ext k hk; simp
  have himm : (b.setWidth 32).extractLsb' 0 8 = b :=
    (BitVec.extractLsb'_setWidth_of_le (by omega)).trans BitVec.extractLsb'_eq_self
  rw [byteOperand, hreserved, himm]
  exact if_pos rfl

/-- The opcode map read at a command's own opcode and operand (R65). -/
theorem decodeFields_opcodeOf_argOf (i : Instr) : decodeFields (opcodeOf i) (argOf i) = .ok i := by
  cases i with
  | crcUpd b => exact byteOperand_setWidth b .crcUpd
  | chPush b => exact byteOperand_setWidth b .chPush
  | rxPush b => exact byteOperand_setWidth b .rxPush
  | _ => rfl

theorem decode_encode (i : Instr) : decode (encode i) = .ok i := by
  obtain ⟨hop, harg⟩ := Laws.EncodeLegal.fields i
  rw [decode, hop, harg, decodeFields_opcodeOf_argOf]

/-- Settles O1: the fields of a command's word are its opcode and operand, and the opcode map reads the
command back from them. -/
theorem decodeEncodeRoundTrip : Obligations.DecodeEncodeRoundTrip := by
  unfold Obligations.DecodeEncodeRoundTrip
  exact decode_encode

/-! ### A word that decodes is its command's word -/

theorem setWidth_low_byte {arg : Word} (h : arg.extractLsb' 8 24 = 0#24) :
    (arg.extractLsb' 0 8).setWidth 32 = arg :=
  calc (arg.extractLsb' 0 8).setWidth 32
    _ = 0#24 ++ arg.extractLsb' 0 8 := BitVec.setWidth_eq_append (by omega)
    _ = arg.extractLsb' 8 24 ++ arg.extractLsb' 0 8 := by rw [h]
    _ = arg := (BitVec.extractLsb'_append_extractLsb'_eq_extractLsb' rfl).trans BitVec.extractLsb'_eq_self

section
variable {arg : Word} {j : Instr}

theorem eq_of_noOperand_ok {i : Instr} (h : noOperand arg i = .ok j) : arg = 0#32 ∧ j = i := by
  rw [noOperand] at h
  split at h
  next harg => exact ⟨harg, (Except.ok.inj h).symm⟩
  next => cases h

theorem eq_of_byteOperand_ok {i : Byte → Instr} (h : byteOperand arg i = .ok j) :
    ∃ b : Byte, arg = b.setWidth 32 ∧ j = i b := by
  rw [byteOperand] at h
  split at h
  next hreserved => exact ⟨arg.extractLsb' 0 8, (setWidth_low_byte hreserved).symm, (Except.ok.inj h).symm⟩
  next => cases h

theorem eq_of_wordOperand_ok {i : Word → Instr} (h : wordOperand arg i = .ok j) : j = i arg :=
  (Except.ok.inj h).symm

/-- What the opcode map reads as a command are that command's opcode and operand: the rows of format B, of
format W, the unassigned opcodes, and the rows of format N (R63, R65). -/
theorem fields_of_decodeFields_ok {op : Byte} (h : decodeFields op arg = .ok j) :
    op = opcodeOf j ∧ arg = argOf j := by
  unfold decodeFields at h
  split at h
  case h_4 | h_7 | h_18 =>
    obtain ⟨b, rfl, rfl⟩ := eq_of_byteOperand_ok h
    exact ⟨rfl, rfl⟩
  case h_8 | h_13 | h_22 =>
    obtain rfl := eq_of_wordOperand_ok h
    exact ⟨rfl, rfl⟩
  case h_23 => cases h
  all_goals
    obtain ⟨rfl, rfl⟩ := eq_of_noOperand_ok h
    exact ⟨rfl, rfl⟩

end

theorem commandWord_opField_argField (cw : CommandWord) : commandWord (opField cw) (argField cw) = cw :=
  (BitVec.extractLsb'_append_extractLsb'_eq_extractLsb' rfl).trans BitVec.extractLsb'_eq_self

theorem encode_of_decode_ok {cw : CommandWord} {i : Instr} (h : decode cw = .ok i) : encode i = cw := by
  obtain ⟨hop, harg⟩ := fields_of_decodeFields_ok h
  rw [encode, ← hop, ← harg, commandWord_opField_argField]

/-! ### The rows a word matches -/

theorem commandWord_inj {op op' : Byte} {arg arg' : Word} :
    commandWord op arg = commandWord op' arg' ↔ op = op' ∧ arg = arg' := by
  refine ⟨fun h => ⟨?_, ?_⟩, fun ⟨hop, harg⟩ => hop ▸ harg ▸ rfl⟩
  · simpa only [Laws.opField_commandWord] using congrArg opField h
  · simpa only [Laws.argField_commandWord] using congrArg argField h

/-- A format's mask keeps exactly the operand bits that the format wants to be 0 (R63). -/
theorem Format.and_argField_mask_eq_zero_iff (f : Format) (arg : Word) :
    arg &&& argField f.mask = 0#32 ↔ f.Takes arg := by
  cases f with
  | N =>
    rw [show argField Format.N.mask = BitVec.allOnes 32 from rfl, BitVec.and_allOnes, Format.Takes]
  | B =>
    rw [show argField Format.B.mask = 0xFFFFFF00#32 from rfl, Format.Takes]
    constructor
    · intro h
      have hreserved := congrArg (BitVec.extractLsb' 8 24) h
      rwa [BitVec.extractLsb'_and, show BitVec.extractLsb' 8 24 0xFFFFFF00#32 = BitVec.allOnes 24 from rfl,
        BitVec.and_allOnes] at hreserved
    · intro h
      rw [← setWidth_low_byte h, Laws.byte_and_reserved]
  | W => exact iff_of_true BitVec.and_zero trivial

/-- A word matches a row when it has the row's opcode and an operand that the row's format takes (R63). -/
theorem matchesWord_iff {r : TableRow} (hr : r ∈ opcodeTable) (cw : CommandWord) :
    r.matchesWord cw = true ↔ opField r.pattern = opField cw ∧ r.format.Takes (argField cw) := by
  have hpattern : ∀ r ∈ opcodeTable, argField r.pattern = 0#32 := by decide
  have hmask : opField r.format.mask = BitVec.allOnes 8 := by cases r.format <;> rfl
  rw [TableRow.matchesWord, beq_iff_eq, ← commandWord_opField_argField cw,
    ← commandWord_opField_argField r.format.mask, ← commandWord_opField_argField r.pattern,
    Laws.commandWord_and, commandWord_inj, hpattern r hr, hmask, BitVec.and_allOnes,
    Format.and_argField_mask_eq_zero_iff, eq_comm]
  simp only [Laws.opField_commandWord, Laws.argField_commandWord]

/-- The opcodes of the table's rows differ (R65). -/
theorem eq_of_opField_pattern_eq : ∀ r ∈ opcodeTable, ∀ r' ∈ opcodeTable,
    opField r.pattern = opField r'.pattern → r = r' := by decide

theorem wellFormedWord_iff (cw : CommandWord) : wellFormedWord cw = true ↔ ∃ i, decode cw = .ok i := by
  rw [wellFormedWord, List.any_eq_true]
  constructor
  · rintro ⟨r, hr, hmatch⟩
    obtain ⟨hop, htakes⟩ := (matchesWord_iff hr cw).1 hmatch
    exact (decode_ok_iff_of_row hr hop).2 htakes
  · rintro ⟨i, hi⟩
    by_contra hnone
    have hnorow : ∀ r ∈ opcodeTable, opField r.pattern ≠ opField cw := fun r hr hop =>
      hnone ⟨r, hr, (matchesWord_iff hr cw).2 ⟨hop, (decode_ok_iff_of_row hr hop).1 ⟨i, hi⟩⟩⟩
    rw [decode, decodeFields_of_no_row hnorow] at hi
    cases hi

theorem encodeLegal (i : Instr) : Laws.EncodeLegal.Statement i := by
  cases i with
  | sysNop => exact Laws.EncodeLegal.sysNop
  | sysRst => exact Laws.EncodeLegal.sysRst
  | crcInit => exact Laws.EncodeLegal.crcInit
  | crcUpd b => exact Laws.EncodeLegal.crcUpd b
  | crcRd => exact Laws.EncodeLegal.crcRd
  | chClr => exact Laws.EncodeLegal.chClr
  | chPush b => exact Laws.EncodeLegal.chPush b
  | chNew w => exact Laws.EncodeLegal.chNew w
  | chStat => exact Laws.EncodeLegal.chStat
  | chRdlen => exact Laws.EncodeLegal.chRdlen
  | chRdtype => exact Laws.EncodeLegal.chRdtype
  | chRdcrc => exact Laws.EncodeLegal.chRdcrc
  | chRdpay w => exact Laws.EncodeLegal.chRdpay w
  | serEmit => exact Laws.EncodeLegal.serEmit
  | txPop => exact Laws.EncodeLegal.txPop
  | txCnt => exact Laws.EncodeLegal.txCnt
  | txFlush => exact Laws.EncodeLegal.txFlush
  | rxPush b => exact Laws.EncodeLegal.rxPush b
  | rxCnt => exact Laws.EncodeLegal.rxCnt
  | rxFlush => exact Laws.EncodeLegal.rxFlush
  | desParse => exact Laws.EncodeLegal.desParse
  | typFlags w => exact Laws.EncodeLegal.typFlags w

/-- A row that a word matches is the only one (R65). -/
theorem filter_matchesWord_eq_singleton {r : TableRow} (hr : r ∈ opcodeTable) {cw : CommandWord}
    (hmatch : r.matchesWord cw = true) : opcodeTable.filter (fun r => r.matchesWord cw) = [r] := by
  have honly : ∀ r' ∈ opcodeTable, r'.matchesWord cw = (r' == r) := by
    intro r' hr'
    rw [Bool.eq_iff_iff, beq_iff_eq]
    refine ⟨fun hmatch' => ?_, fun heq => heq ▸ hmatch⟩
    obtain ⟨hop, -⟩ := (matchesWord_iff hr cw).1 hmatch
    obtain ⟨hop', -⟩ := (matchesWord_iff hr' cw).1 hmatch'
    exact eq_of_opField_pattern_eq r' hr' r hr (hop'.trans hop.symm)
  have hnodup : opcodeTable.Nodup := by decide
  rw [List.filter_congr honly, List.filter_beq, List.count_eq_one_of_mem hnodup hr, List.replicate_one]

/-- Settles O2: a row is matched by its opcode and an operand its format takes, which is when the opcode map
reads a command, and the opcodes of the rows differ. -/
theorem legalWordsAreExactlyTableRows : Obligations.LegalWordsAreExactlyTableRows := by
  unfold Obligations.LegalWordsAreExactlyTableRows
  refine fun cw => ⟨wellFormedWord_iff cw, fun i hi => ?_⟩
  have hword := encode_of_decode_ok hi
  obtain ⟨-, -, r, hr, hformat, hmatch⟩ := encodeLegal i
  rw [hword] at hmatch
  exact ⟨hword, r, filter_matchesWord_eq_singleton hr hmatch, hformat⟩

/-- Settles O4: the decoder evaluated on each word. -/
theorem wordsOfEveryUnitDecode : Obligations.WordsOfEveryUnitDecode := by
  unfold Obligations.WordsOfEveryUnitDecode
  exact ⟨rfl, rfl, rfl, rfl, rfl, rfl, rfl, rfl, rfl, rfl, rfl, rfl⟩

end Sys2Proof
end

section
/-! The CRC register (spec/40_crc32.md R77, R80 to R82, R88, R89): an iteration is linear over xor and shifts
right where the bit shifted out is 0. So eight iterations take in one byte of a word xored into the register
and leave the rest of the word, which gives the table form and the residue. -/

namespace Sys2Proof.Machine

/-! ### Iterations -/

theorem crcShift_xor (r u : Word) : crcShift (r ^^^ u) = crcShift r ^^^ crcShift u := by
  apply BitVec.eq_of_getLsbD_eq
  intro i _
  simp only [BitVec.getLsbD_xor, crcShift_getLsbD]
  cases r.getLsbD 0 <;> cases u.getLsbD 0 <;> simp [Bool.xor_comm, Bool.xor_left_comm]

theorem crcShift_iterate_xor (n : Nat) (r u : Word) :
    crcShift^[n] (r ^^^ u) = crcShift^[n] r ^^^ crcShift^[n] u := by
  induction n generalizing r u with
  | zero => rfl
  | succ n ih => simp only [Function.iterate_succ_apply, crcShift_xor, ih]

/-- The constant does not come in where the bits shifted out are 0 (R80). -/
theorem crcShift_iterate_of_low_zero {n : Nat} {r : Word} (h : ∀ i < n, r.getLsbD i = false) :
    crcShift^[n] r = r >>> n := by
  induction n generalizing r with
  | zero => exact (BitVec.ushiftRight_zero r).symm
  | succ n ih =>
    have hshift : crcShift r = r >>> 1 := by
      rw [crcShift, h 0 n.succ_pos]
      rfl
    have hrest : ∀ i < n, (r >>> 1).getLsbD i = false := fun i hi => by
      rw [BitVec.getLsbD_ushiftRight]
      exact h (1 + i) (by omega)
    rw [Function.iterate_succ_apply, hshift, ih hrest, ← BitVec.shiftRight_add, Nat.add_comm]

/-- Eight iterations on a word xored into the register take in its low byte and leave the others. -/
theorem crcShift_iterate_eight_xor (c w : Word) :
    crcShift^[8] (c ^^^ w) = crcStep c (w.extractLsb' 0 8) ^^^ (w >>> 8) := by
  have hlow : ∀ i < 8, (zext32 (w.extractLsb' 0 8) ^^^ w).getLsbD i = false := fun i hi => by
    have hi32 : i < 32 := by omega
    simp [zext32, hi, hi32]
  have hhigh : (zext32 (w.extractLsb' 0 8) ^^^ w) >>> 8 = w >>> 8 := by
    ext i hi
    simp [zext32]
  calc crcShift^[8] (c ^^^ w)
    _ = crcShift^[8] ((c ^^^ zext32 (w.extractLsb' 0 8)) ^^^ (zext32 (w.extractLsb' 0 8) ^^^ w)) := by
      rw [BitVec.xor_assoc, ← BitVec.xor_assoc (zext32 _), BitVec.xor_self, BitVec.zero_xor]
    _ = crcStep c (w.extractLsb' 0 8) ^^^ (w >>> 8) := by
      rw [crcShift_iterate_xor, crcShift_iterate_of_low_zero hlow, hhigh]
      rfl

/-! ### The algorithm and its other forms -/

/-- Settles O10: the register after `i` iterations is the iterated shift of R80, and the fold of R81 takes one
more byte by one more `crc_step`. -/
theorem checksumFollowsItsAlgorithm : Obligations.ChecksumFollowsItsAlgorithm := by
  unfold Obligations.ChecksumFollowsItsAlgorithm
  refine ⟨fun c b => ⟨fun i => crcShift^[i] (c ^^^ zext32 b), rfl, fun i => ?_, rfl⟩, rfl,
    fun s b => crcRaw_append s [b], fun _ => rfl⟩
  exact Function.iterate_succ_apply' ..

theorem crcStep_table_form (c : Word) (b : Byte) :
    crcStep c b = (c >>> 8) ^^^ crcStep 0#32 ((c ^^^ zext32 b).extractLsb' 0 8) := by
  have hbyte : zext32 b >>> 8 = 0#32 := by
    ext i hi
    simp [zext32]
  calc crcStep c b
    _ = crcShift^[8] (0#32 ^^^ (c ^^^ zext32 b)) := by rw [BitVec.zero_xor]; rfl
    _ = crcStep 0#32 ((c ^^^ zext32 b).extractLsb' 0 8) ^^^ ((c ^^^ zext32 b) >>> 8) :=
      crcShift_iterate_eight_xor ..
    _ = (c >>> 8) ^^^ crcStep 0#32 ((c ^^^ zext32 b).extractLsb' 0 8) := by
      rw [BitVec.ushiftRight_xor_distrib, hbyte, BitVec.xor_zero, BitVec.xor_comm]

theorem crcStep_xor (c d : Word) (b e : Byte) : crcStep (c ^^^ d) (b ^^^ e) = crcStep c b ^^^ crcStep d e := by
  have hargs : (c ^^^ d) ^^^ zext32 (b ^^^ e) = (c ^^^ zext32 b) ^^^ (d ^^^ zext32 e) := by
    rw [zext32, BitVec.setWidth_xor]
    ac_rfl
  rw [crcStep, hargs, crcShift_iterate_xor]
  rfl

theorem crcStep_zero : crcStep 0#32 0#8 = 0#32 := by decide

/-- Settles O11: the table form and linearity are those of the eight iterations, and the incremental form is
the fold of a concatenation. -/
theorem checksumEquivalentForms : Obligations.ChecksumEquivalentForms := by
  unfold Obligations.ChecksumEquivalentForms
  refine ⟨crcStep_table_form, crcStep_zero, by decide, by decide, by decide, by decide, crcRaw_append,
    fun c d b e => ?_, crcStep_zero⟩
  rw [crcStep_zero, BitVec.xor_zero, crcStep_xor]

/-! ### The residue, and single-bit errors -/

/-- The four bytes of a word, least significant first, are taken in as the whole word xored into the register
and shifted out by 32 iterations. -/
theorem crcFold_be32_reverse (c w : Word) : crcFold c (be32 w).reverse = crcShift^[32] (c ^^^ w) := by
  have hend : w >>> 32 = 0#32 := BitVec.ushiftRight_eq_zero (Nat.le_refl 32)
  have hbyte (n : Nat) : (w >>> n).extractLsb' 0 8 = w.extractLsb' n 8 := by
    ext i hi
    simp
  calc crcFold c (be32 w).reverse
    _ = crcFold c [w.extractLsb' 0 8, w.extractLsb' 8 8, w.extractLsb' 16 8, w.extractLsb' 24 8] := rfl
    _ = crcShift^[8] (crcShift^[8] (crcShift^[8] (crcShift^[8] (c ^^^ w)))) := by
      simp only [crcShift_iterate_eight_xor, hbyte, ← BitVec.shiftRight_add, hend, BitVec.xor_zero,
        crcFold_cons, crcFold_nil]
    _ = crcShift^[32] (c ^^^ w) := rfl

/-- Settles O12: the register cancels against its own value in the appended CRC, and what is left to shift out
is the final XOR of R82. -/
theorem checksumResidueIsConstant : Obligations.ChecksumResidueIsConstant := by
  unfold Obligations.ChecksumResidueIsConstant
  intro s
  rw [crcRaw_append, crcFold_be32_reverse, crc32, ← BitVec.xor_assoc, BitVec.xor_self, BitVec.zero_xor]
  decide +kernel

/-- Settles O13: a flipped bit changes its byte, and the register keeps the difference. -/
theorem singleBitFlipChangesChecksum : Obligations.SingleBitFlipChangesChecksum := by
  unfold Obligations.SingleBitFlipChangesChecksum
  exact fun bs i k hi hk => crc32_modify_ne hi (xor_shifted_bit_ne hk)

end Sys2Proof.Machine
end

section
/-! What a command can do, said once: the command is refused with a status of its row, or reads and answers a
value, or writes and answers a value. The obligations about every command go through this case analysis and
not through `exec`; `Does.performs` and `exists_does` tie it to `exec`. -/

namespace Sys2Proof.Machine

/-- The command answers the error `e` in `s` (R92, R96 to R98, R111, R112, R121, R124). -/
inductive Refuses (s : State) : Instr → Status → Prop
  | chPush_sealed (b : Byte) {c : Chunk} (h : s.chunk = some c) : Refuses s (.chPush b) .sealed
  | chPush_full (b : Byte) (h : s.chunk = none) (hfull : s.pay.length = s.cfg.payloadMax) :
      Refuses s (.chPush b) .payloadFull
  | chRdtype (h : s.chunk = none) : Refuses s .chRdtype .notSealed
  | chRdcrc (h : s.chunk = none) : Refuses s .chRdcrc .notSealed
  | chRdpay {w : Word} (h : s.pay[w.toNat]? = none) : Refuses s (.chRdpay w) .indexRange
  | serEmit_notSealed (h : s.chunk = none) : Refuses s .serEmit .notSealed
  | serEmit_full {c : Chunk} (h : s.chunk = some c)
      (hfull : s.cfg.txMax < s.txq.length + frameLength s.pay.length) : Refuses s .serEmit .txFull
  | txPop (h : s.txq = []) : Refuses s .txPop .txEmpty
  | rxPush (b : Byte) (hfull : s.rxq.length = s.cfg.rxMax) : Refuses s (.rxPush b) .rxFull
  | desParse {e : Status} (h : parseFrame s.cfg.payloadMax s.rxq = .error e) : Refuses s .desParse e

/-- The command answers (OK, `v`) in `s` and writes nothing (R49, R140). -/
inductive Reads (s : State) : Instr → Word → Prop
  | sysNop : Reads s .sysNop 0#32
  | crcRd : Reads s .crcRd (s.crcacc ^^^ crcFinalXor)
  | chStat : Reads s .chStat (statWord s.isSealed)
  | chRdlen : Reads s .chRdlen (countWord s.len)
  | chRdtype {c : Chunk} (h : s.chunk = some c) : Reads s .chRdtype c.code.toWord
  | chRdcrc {c : Chunk} (h : s.chunk = some c) : Reads s .chRdcrc c.crc
  | chRdpay {w : Word} {b : Byte} (h : s.pay[w.toNat]? = some b) : Reads s (.chRdpay w) (zext32 b)
  | txCnt : Reads s .txCnt (countWord s.txcnt)
  | rxCnt : Reads s .rxCnt (countWord s.rxcnt)
  | typFlags (w : Word) : Reads s (.typFlags w) (typeFlags (TypeCode.ofWord w))

/-- The command answers (OK, `v`) in `s` and leaves the block as in `u`. -/
inductive Writes (s : State) : Instr → State → Word → Prop
  | sysRst : Writes s .sysRst (resetBlock s) 0#32
  | crcInit : Writes s .crcInit (setCrcacc crcInitial s) 0#32
  | crcUpd (b : Byte) : Writes s (.crcUpd b) (setCrcacc (crcStep s.crcacc b) s) 0#32
  | chClr : Writes s .chClr (clearSlot s) 0#32
  | chPush (b : Byte) (h : s.chunk = none) (hroom : s.pay.length ≠ s.cfg.payloadMax) :
      Writes s (.chPush b) (stageByte b s) 0#32
  | chNew (w : Word) :
      Writes s (.chNew w) (sealSlot (TypeCode.ofWord w) (chunkCrc (TypeCode.ofWord w) s.pay) s)
        (chunkCrc (TypeCode.ofWord w) s.pay)
  | serEmit {c : Chunk} (h : s.chunk = some c)
      (hroom : s.txq.length + frameLength s.pay.length ≤ s.cfg.txMax) :
      Writes s .serEmit (enqueueTx (frameBytes c.code s.pay c.crc) s) (countWord (frameLength s.pay.length))
  | txPop {b : Byte} {q : List Byte} (h : s.txq = b :: q) : Writes s .txPop (dequeueTx 1 s) (zext32 b)
  | txFlush : Writes s .txFlush (dequeueTx s.txcnt s) 0#32
  | rxPush (b : Byte) (hroom : s.rxq.length ≠ s.cfg.rxMax) : Writes s (.rxPush b) (enqueueRx [b] s) 0#32
  | rxFlush : Writes s .rxFlush (dequeueRx s.rxcnt s) 0#32
  | desParse {f : ParsedFrame} (h : parseFrame s.cfg.payloadMax s.rxq = .ok f) :
      Writes s .desParse (loadFrame f s) (countWord (frameLength f.pay.length))

/-- The command answers `r` in `s` and leaves the block as in `u`. -/
inductive Does (s : State) (i : Instr) : State → Response → Prop
  | refuses {e : Status} (h : Refuses s i e) : Does s i s ⟨e, 0#32⟩
  | reads {v : Word} (h : Reads s i v) : Does s i s ⟨.ok, v⟩
  | writes {u : State} {v : Word} (h : Writes s i u v) : Does s i u ⟨.ok, v⟩

/-! ### The case analysis is that of `exec` -/

section
variable {s t u : State} {i : Instr} {e : Status} {v : Word} {r : Response}

theorem Refuses.onlyAnswers (h : Refuses s i e) : OnlyAnswers i s ⟨e, 0#32⟩ := by
  cases h with
  | chPush_sealed b h => exact fun _ => exec_chPush_of_sealed b h
  | chPush_full b h hfull => exact fun _ => exec_chPush_of_full b h hfull
  | chRdtype h => exact chRdtype_onlyAnswers_of_none h
  | chRdcrc h => exact chRdcrc_onlyAnswers_of_none h
  | chRdpay h => exact chRdpay_onlyAnswers_of_none h
  | serEmit_notSealed h => exact fun _ => exec_serEmit_of_none h
  | serEmit_full h hfull => exact fun _ => exec_serEmit_of_full h hfull
  | txPop h => exact fun _ => exec_txPop_of_nil h
  | rxPush b hfull => exact fun _ => exec_rxPush_of_full b hfull
  | desParse h => exact fun _ => exec_desParse_of_error h

theorem Reads.onlyAnswers (h : Reads s i v) : OnlyAnswers i s ⟨.ok, v⟩ := by
  cases h with
  | sysNop => exact sysNop_onlyAnswers s
  | crcRd => exact crcRd_onlyAnswers s
  | chStat => exact chStat_onlyAnswers s
  | chRdlen => exact chRdlen_onlyAnswers s
  | chRdtype h => exact chRdtype_onlyAnswers_of_some h
  | chRdcrc h => exact chRdcrc_onlyAnswers_of_some h
  | chRdpay h => exact chRdpay_onlyAnswers_of_some h
  | txCnt => exact txCnt_onlyAnswers s
  | rxCnt => exact rxCnt_onlyAnswers s
  | typFlags w => exact typFlags_onlyAnswers s w

theorem dequeueTx_one_of_cons {b : Byte} {q : List Byte} (h : s.txq = b :: q) :
    dequeueTx 1 s = { s with txq := q } := by
  rw [dequeueTx, h]
  rfl

theorem Writes.performs (h : Writes s i u v) : Performs i s u ⟨.ok, v⟩ := by
  cases h with
  | chPush b h hroom => exact fun _ => exec_chPush_of_room b h hroom
  | serEmit h hroom => exact fun _ => exec_serEmit_of_room h hroom
  | txPop h =>
    rw [dequeueTx_one_of_cons h]
    exact fun _ => exec_txPop_of_cons h
  | rxPush b hroom => exact fun _ => exec_rxPush_of_room b hroom
  | desParse h => exact fun _ => exec_desParse_of_ok h
  | _ => exact fun _ => rfl

theorem Does.performs (h : Does s i u r) : Performs i s u r := by
  cases h with
  | refuses h => exact h.onlyAnswers.performs
  | reads h => exact h.onlyAnswers.performs
  | writes h => exact h.performs

theorem Does.exec_eq (h : Does s i u r) : exec i s = .next { u with responses := s.responses ++ [r] } :=
  h.performs.exec_eq

theorem exists_does_chPush (s : State) (b : Byte) : ∃ u r, Does s (.chPush b) u r := by
  cases h : s.chunk with
  | some c => exact ⟨_, _, .refuses (.chPush_sealed b h)⟩
  | none =>
    by_cases hfull : s.pay.length = s.cfg.payloadMax
    · exact ⟨_, _, .refuses (.chPush_full b h hfull)⟩
    · exact ⟨_, _, .writes (.chPush b h hfull)⟩

theorem exists_does_serEmit (s : State) : ∃ u r, Does s .serEmit u r := by
  cases h : s.chunk with
  | none => exact ⟨_, _, .refuses (.serEmit_notSealed h)⟩
  | some c =>
    rcases Nat.lt_or_ge s.cfg.txMax (s.txq.length + frameLength s.pay.length) with hfull | hroom
    · exact ⟨_, _, .refuses (.serEmit_full h hfull)⟩
    · exact ⟨_, _, .writes (.serEmit h hroom)⟩

/-- Every command in every state does one of these things (R65, R150). -/
theorem exists_does (s : State) (i : Instr) : ∃ u r, Does s i u r := by
  cases i with
  | sysNop => exact ⟨_, _, .reads .sysNop⟩
  | sysRst => exact ⟨_, _, .writes .sysRst⟩
  | crcInit => exact ⟨_, _, .writes .crcInit⟩
  | crcUpd b => exact ⟨_, _, .writes (.crcUpd b)⟩
  | crcRd => exact ⟨_, _, .reads .crcRd⟩
  | chClr => exact ⟨_, _, .writes .chClr⟩
  | chPush b => exact exists_does_chPush s b
  | chNew w => exact ⟨_, _, .writes (.chNew w)⟩
  | chStat => exact ⟨_, _, .reads .chStat⟩
  | chRdlen => exact ⟨_, _, .reads .chRdlen⟩
  | chRdtype =>
    cases h : s.chunk with
    | none => exact ⟨_, _, .refuses (.chRdtype h)⟩
    | some c => exact ⟨_, _, .reads (.chRdtype h)⟩
  | chRdcrc =>
    cases h : s.chunk with
    | none => exact ⟨_, _, .refuses (.chRdcrc h)⟩
    | some c => exact ⟨_, _, .reads (.chRdcrc h)⟩
  | chRdpay w =>
    cases h : s.pay[w.toNat]? with
    | none => exact ⟨_, _, .refuses (.chRdpay h)⟩
    | some b => exact ⟨_, _, .reads (.chRdpay h)⟩
  | serEmit => exact exists_does_serEmit s
  | txPop =>
    cases h : s.txq with
    | nil => exact ⟨_, _, .refuses (.txPop h)⟩
    | cons b q => exact ⟨_, _, .writes (.txPop h)⟩
  | txCnt => exact ⟨_, _, .reads .txCnt⟩
  | txFlush => exact ⟨_, _, .writes .txFlush⟩
  | rxPush b =>
    by_cases hfull : s.rxq.length = s.cfg.rxMax
    · exact ⟨_, _, .refuses (.rxPush b hfull)⟩
    · exact ⟨_, _, .writes (.rxPush b hfull)⟩
  | rxCnt => exact ⟨_, _, .reads .rxCnt⟩
  | rxFlush => exact ⟨_, _, .writes .rxFlush⟩
  | desParse =>
    cases h : parseFrame s.cfg.payloadMax s.rxq with
    | error e => exact ⟨_, _, .refuses (.desParse h)⟩
    | ok f => exact ⟨_, _, .writes (.desParse h)⟩
  | typFlags w => exact ⟨_, _, .reads (.typFlags w)⟩

theorem does_of_exec (h : exec i s = .next t) :
    ∃ u r, Does s i u r ∧ t = { u with responses := s.responses ++ [r] } := by
  obtain ⟨u, r, hdoes⟩ := exists_does s i
  rw [hdoes.exec_eq] at h
  exact ⟨u, r, hdoes, (Host.Outcome.next.inj h).symm⟩

/-- The same, where the response delivered is known. -/
theorem does_of_exec_of_responses (h : exec i s = .next t) (hr : t.responses = s.responses ++ [r]) :
    ∃ u, Does s i u r ∧ t = { u with responses := s.responses ++ [r] } := by
  obtain ⟨u, r', hdoes, rfl⟩ := does_of_exec h
  obtain rfl : r' = r := by simpa using hr
  exact ⟨u, hdoes, rfl⟩

end

/-! ### Which item a command can write (R20) -/

section
variable {s u : State} {i : Instr} {r : Response}

theorem Does.crcacc_eq (h : Does s i u r) (hinit : i ≠ .crcInit) (hupd : ∀ b, i ≠ .crcUpd b)
    (hrst : i ≠ .sysRst) : u.crcacc = s.crcacc := by
  cases h with
  | refuses | reads => rfl
  | writes h =>
    cases h with
    | crcInit => exact absurd rfl hinit
    | crcUpd b => exact absurd rfl (hupd b)
    | sysRst => exact absurd rfl hrst
    | _ => rfl

theorem Does.pay_eq (h : Does s i u r) (hclr : i ≠ .chClr) (hpush : ∀ b, i ≠ .chPush b)
    (hparse : i ≠ .desParse) (hrst : i ≠ .sysRst) : u.pay = s.pay := by
  cases h with
  | refuses | reads => rfl
  | writes h =>
    cases h with
    | chClr => exact absurd rfl hclr
    | chPush b => exact absurd rfl (hpush b)
    | desParse => exact absurd rfl hparse
    | sysRst => exact absurd rfl hrst
    | _ => rfl

theorem Does.chunk_eq (h : Does s i u r) (hclr : i ≠ .chClr) (hnew : ∀ w, i ≠ .chNew w)
    (hparse : i ≠ .desParse) (hrst : i ≠ .sysRst) : u.chunk = s.chunk := by
  cases h with
  | refuses | reads => rfl
  | writes h =>
    cases h with
    | chClr => exact absurd rfl hclr
    | chNew w => exact absurd rfl (hnew w)
    | desParse => exact absurd rfl hparse
    | sysRst => exact absurd rfl hrst
    | _ => rfl

theorem Does.rxq_eq (h : Does s i u r) (hpush : ∀ b, i ≠ .rxPush b) (hflush : i ≠ .rxFlush)
    (hparse : i ≠ .desParse) (hrst : i ≠ .sysRst) : u.rxq = s.rxq := by
  cases h with
  | refuses | reads => rfl
  | writes h =>
    cases h with
    | rxPush b => exact absurd rfl (hpush b)
    | rxFlush => exact absurd rfl hflush
    | desParse => exact absurd rfl hparse
    | sysRst => exact absurd rfl hrst
    | _ => rfl

theorem Does.txq_eq (h : Does s i u r) (hemit : i ≠ .serEmit) (hpop : i ≠ .txPop) (hflush : i ≠ .txFlush)
    (hrst : i ≠ .sysRst) : u.txq = s.txq := by
  cases h with
  | refuses | reads => rfl
  | writes h =>
    cases h with
    | serEmit => exact absurd rfl hemit
    | txPop => exact absurd rfl hpop
    | txFlush => exact absurd rfl hflush
    | sysRst => exact absurd rfl hrst
    | _ => rfl

theorem Does.cfg_port_eq (h : Does s i u r) : u.cfg = s.cfg ∧ u.port = s.port := by
  cases h with
  | refuses | reads => exact ⟨rfl, rfl⟩
  | writes h => cases h <;> exact ⟨rfl, rfl⟩

end

/-- Settles O49: a response writes no item of R20, and each item's writers are found among the twelve
commands that write. -/
theorem writersAreThoseOfTheTable : Obligations.WritersAreThoseOfTheTable := by
  unfold Obligations.WritersAreThoseOfTheTable
  intro i s t h
  obtain ⟨u, r, hdoes, rfl⟩ := does_of_exec h
  exact ⟨fun ⟨hinit, hupd, hrst⟩ => hdoes.crcacc_eq hinit hupd hrst,
    fun ⟨hclr, hpush, hparse, hrst⟩ => hdoes.pay_eq hclr hpush hparse hrst,
    fun ⟨hclr, hnew, hparse, hrst⟩ => hdoes.chunk_eq hclr hnew hparse hrst,
    fun ⟨hpush, hflush, hparse, hrst⟩ => hdoes.rxq_eq hpush hflush hparse hrst,
    fun ⟨hemit, hpop, hflush, hrst⟩ => hdoes.txq_eq hemit hpop hflush hrst, hdoes.cfg_port_eq⟩

/-! ### Statuses, errors and their repetition (R151, R152, R158) -/

theorem parseFrame_error_mem_statusesOf {m : Nat} {q : List Byte} {e : Status}
    (h : parseFrame m q = .error e) : e ∈ statusesOf .desParse := by
  rcases parseFrame_error h with ⟨rfl, -⟩ | ⟨rfl, -⟩ | ⟨rfl, -⟩ <;> decide

section
variable {s u : State} {i : Instr} {e : Status} {r : Response}

theorem Refuses.mem_statusesOf (h : Refuses s i e) : e ∈ statusesOf i := by
  cases h with
  | desParse h => exact parseFrame_error_mem_statusesOf h
  | _ => simp [statusesOf]

theorem Does.status_mem (h : Does s i u r) : r.status ∈ statusesOf i := by
  have hok : .ok ∈ statusesOf i := by cases i <;> simp [statusesOf]
  cases h with
  | refuses h => exact h.mem_statusesOf
  | reads | writes => exact hok

/-- A command that does not answer OK is refused, so it writes nothing and its value is 0. -/
theorem Does.of_status_ne_ok (h : Does s i u r) (hr : r.status ≠ .ok) : u = s ∧ r.value = 0#32 := by
  cases h with
  | refuses => exact ⟨rfl, rfl⟩
  | reads | writes => exact absurd rfl hr

end

/-- Settles O48: the status of a refusal is in the command's row, and so is OK. -/
theorem statusesAreThoseOfTheMap : Obligations.StatusesAreThoseOfTheMap := by
  unfold Obligations.StatusesAreThoseOfTheMap
  intro i s t r h hr
  obtain ⟨u, hdoes, -⟩ := does_of_exec_of_responses h hr
  exact hdoes.status_mem

/-- Settles O47: a failed command leaves the state it found but for its response, which it does not read. -/
theorem failedCommandFailsAgain : Obligations.FailedCommandFailsAgain := by
  unfold Obligations.FailedCommandFailsAgain
  intro i s t r h hr hne
  obtain ⟨u, hdoes, rfl⟩ := does_of_exec_of_responses h hr
  obtain ⟨rfl, -⟩ := hdoes.of_status_ne_ok hne
  exact ⟨rfl, hdoes.performs _⟩

/-! ### What a command does not read (R34, R181, log 1)

The premises and answers of a case name only what the command reads, so they carry over, case by case. -/

section
variable {s u : State} {i : Instr} {e : Status} {v : Word} {r : Response}

theorem Refuses.with_port (h : Refuses s i e) (p : List HostMove) : Refuses { s with port := p } i e := by
  cases h <;> constructor <;> assumption

theorem Reads.with_port (h : Reads s i v) (p : List HostMove) : Reads { s with port := p } i v := by
  cases h <;> constructor <;> assumption

theorem Writes.with_port (h : Writes s i u v) (p : List HostMove) :
    Writes { s with port := p } i { u with port := p } v := by
  cases h <;> constructor <;> assumption

theorem Does.with_port (h : Does s i u r) (p : List HostMove) :
    Does { s with port := p } i { u with port := p } r := by
  cases h with
  | refuses h => exact .refuses (h.with_port p)
  | reads h => exact .reads (h.with_port p)
  | writes h => exact .writes (h.with_port p)

theorem Refuses.with_crcacc (h : Refuses s i e) (a : Word) : Refuses { s with crcacc := a } i e := by
  cases h <;> constructor <;> assumption

theorem Reads.with_crcacc (h : Reads s i v) (hrd : i ≠ .crcRd) (a : Word) :
    Reads { s with crcacc := a } i v := by
  cases h with
  | crcRd => exact absurd rfl hrd
  | _ => constructor <;> assumption

theorem Writes.with_crcacc (h : Writes s i u v) (hinit : i ≠ .crcInit) (hupd : ∀ b, i ≠ .crcUpd b)
    (hrst : i ≠ .sysRst) (a : Word) : Writes { s with crcacc := a } i { u with crcacc := a } v := by
  cases h with
  | crcInit => exact absurd rfl hinit
  | crcUpd b => exact absurd rfl (hupd b)
  | sysRst => exact absurd rfl hrst
  | _ => constructor <;> assumption

theorem Does.with_crcacc (h : Does s i u r) (hinit : i ≠ .crcInit) (hupd : ∀ b, i ≠ .crcUpd b)
    (hrd : i ≠ .crcRd) (hrst : i ≠ .sysRst) (a : Word) :
    Does { s with crcacc := a } i { u with crcacc := a } r := by
  cases h with
  | refuses h => exact .refuses (h.with_crcacc a)
  | reads h => exact .reads (h.with_crcacc hrd a)
  | writes h => exact .writes (h.with_crcacc hinit hupd hrst a)

end

/-- Settles O50: no premise of a command outside the CRC generator names CRCACC, and the three CRC commands
are one equation each, in which neither the slot nor a queue occurs. -/
theorem accumulatorIsIndependent : Obligations.AccumulatorIsIndependent := by
  unfold Obligations.AccumulatorIsIndependent
  refine ⟨fun i s t v hinit hupd hrd hrst h => ?_, fun i s t pay rxq txq chunk hi h => ?_⟩
  · obtain ⟨u, r, hdoes, rfl⟩ := does_of_exec h
    exact ⟨hdoes.crcacc_eq hinit hupd hrst, (hdoes.with_crcacc hinit hupd hrd hrst v).exec_eq⟩
  · rcases hi with rfl | ⟨b, rfl⟩ | rfl <;> cases h <;> exact ⟨rfl, rfl, rfl, rfl, rfl⟩

/-- Settles O51: of the commands that write, the two that clear the slot and the two that seal it are the only
ones to touch a sealed slot, since CH.PUSH stages into an unsealed one. -/
theorem sealedChunkIsImmutable : Obligations.SealedChunkIsImmutable := by
  unfold Obligations.SealedChunkIsImmutable
  intro i s t c hc h
  obtain ⟨u, r, hdoes, rfl⟩ := does_of_exec h
  cases hdoes with
  | refuses | reads => exact .inl ⟨hc, rfl⟩
  | writes hwrites =>
    cases hwrites with
    | sysRst => exact .inr (.inl ⟨rfl, rfl, .inr rfl⟩)
    | chClr => exact .inr (.inl ⟨rfl, rfl, .inl rfl⟩)
    | chPush b hnone => cases hc.symm.trans hnone
    | chNew w => exact .inr (.inr ⟨_, rfl, rfl, .inl ⟨w, rfl, rfl⟩⟩)
    | desParse hparse =>
      obtain ⟨-, -, -, -, -, -, hcrc⟩ := parseFrame_ok hparse
      exact .inr (.inr ⟨_, rfl, hcrc, .inr rfl⟩)
    | _ => exact .inl ⟨hc, rfl⟩

end Sys2Proof.Machine
end

section
/-! Steps and runs (spec/20_memory.md R50, spec/60_exceptions.md R150, R165): what one step can do, said once,
and that a property which every step keeps holds along every run. -/

namespace Sys2Proof.Machine

/-- One step from `s` can lead to: `s` itself while the host is silent (R165); the reset block (R170); the
block with only IllegalCommand answered (R66); or what the command presented does (R65). -/
inductive StepsTo (s : State) : State → Prop
  | silent (hport : s.port = []) : StepsTo s s
  | reset {rest : List HostMove} (hport : s.port = .reset :: rest) :
      StepsTo s (resetBlock { s with port := rest })
  | illegal {cw : CommandWord} {rest : List HostMove} (hport : s.port = .issue cw :: rest) {why : Illegal}
      (hdec : decode cw = .error why) :
      StepsTo s { s with port := rest, responses := s.responses ++ [⟨.illegalCommand, 0#32⟩] }
  | command {cw : CommandWord} {rest : List HostMove} (hport : s.port = .issue cw :: rest) {i : Instr}
      (hdec : decode cw = .ok i) {u : State} {r : Response} (h : Does { s with port := rest } i u r) :
      StepsTo s { u with responses := s.responses ++ [r] }

theorem step_of_silent {s : State} (hport : s.port = []) : step s = .next s := by
  rw [step, nextMove_nil s hport, idle]

theorem exists_stepsTo (s : State) : ∃ t, step s = .next t ∧ StepsTo s t := by
  match hport : s.port with
  | [] => exact ⟨s, step_of_silent hport, .silent hport⟩
  | .reset :: rest => exact ⟨_, step_of_reset hport, .reset hport⟩
  | .issue cw :: rest =>
    cases hdec : decode cw with
    | error why => exact ⟨_, step_of_decode_error hport hdec, .illegal hport hdec⟩
    | ok i =>
      obtain ⟨u, r, hdoes⟩ := exists_does { s with port := rest } i
      exact ⟨_, (step_of_decode_ok hport hdec).trans hdoes.exec_eq, .command hport hdec hdoes⟩

theorem stepsTo_of_step {s t : State} (h : step s = .next t) : StepsTo s t := by
  obtain ⟨t', hstep, hto⟩ := exists_stepsTo s
  rw [hstep] at h
  exact Host.Outcome.next.inj h ▸ hto

/-- Settles O35: the next move is the word, and the decoder's answer is what the step performs. -/
theorem stepRunsDecodedCommand : Obligations.StepRunsDecodedCommand := by
  unfold Obligations.StepRunsDecodedCommand
  exact fun _ _ _ _ => step_of_decode_ok

/-- Settles O36: a silent step leaves the state, so the port is still empty at the next one. -/
theorem silentHostLeavesState : Obligations.SilentHostLeavesState := by
  unfold Obligations.SilentHostLeavesState
  intro s k hport
  induction k with
  | zero => exact run_zero s
  | succ k ih => exact (run_succ k s s (step_of_silent hport)).trans ih

/-- Settles O44: every step answers a next state, from which the rest of the run goes on. -/
theorem machineNeverStops : Obligations.MachineNeverStops := by
  unfold Obligations.MachineNeverStops
  intro s k
  induction k generalizing s with
  | zero => exact ⟨s, run_zero s⟩
  | succ k ih =>
    obtain ⟨u, hstep, -⟩ := exists_stepsTo s
    obtain ⟨t, hrun⟩ := ih u
    exact ⟨t, (run_succ k s u hstep).trans hrun⟩

/-- Settles O45: a step on a word answers IllegalCommand or the command's one response, of value 0 where it is
an error; no kind of step writes the parameters or a response delivered before. -/
theorem everyWordAnswersOnce : Obligations.EveryWordAnswersOnce := by
  unfold Obligations.EveryWordAnswersOnce
  refine ⟨fun s cw rest hport => ?_, fun s t h => ?_⟩
  · cases hdec : decode cw with
    | error why => exact ⟨_, _, step_of_decode_error hport hdec, rfl, rfl, fun _ => rfl⟩
    | ok i =>
      obtain ⟨u, r, hdoes⟩ := exists_does { s with port := rest } i
      obtain ⟨-, hkept⟩ := hdoes.cfg_port_eq
      refine ⟨_, r, (step_of_decode_ok hport hdec).trans hdoes.exec_eq, hkept, rfl, fun hne => ?_⟩
      obtain ⟨-, hvalue⟩ := hdoes.of_status_ne_ok hne
      exact hvalue
  · cases stepsTo_of_step h with
    | silent => exact ⟨rfl, [], List.append_nil _⟩
    | reset => exact ⟨rfl, [], List.append_nil _⟩
    | illegal => exact ⟨rfl, _, rfl⟩
    | command _ _ hdoes =>
      obtain ⟨hcfg, -⟩ := hdoes.cfg_port_eq
      exact ⟨hcfg, _, rfl⟩

/-- The port takes no part in what a command does (log 1). -/
theorem exec_with_port {i : Instr} {s t : State} (h : exec i s = .next t) (p : List HostMove) :
    exec i { s with port := p } = .next { t with port := p } := by
  obtain ⟨u, r, hdoes, rfl⟩ := does_of_exec h
  exact (hdoes.with_port p).exec_eq

theorem exists_exec_next_port_eq (s : State) (i : Instr) : ∃ t, exec i s = .next t ∧ t.port = s.port := by
  obtain ⟨u, r, hdoes⟩ := exists_does s i
  obtain ⟨-, hport⟩ := hdoes.cfg_port_eq
  exact ⟨_, hdoes.exec_eq, hport⟩

/-- Settles O37: each step performs the command its word decodes to, and the commands after it see the state it
left, with the rest of the words still on the port. -/
theorem runOfWordsIsRunOfMeanings : Obligations.RunOfWordsIsRunOfMeanings := by
  unfold Obligations.RunOfWordsIsRunOfMeanings
  intro is s rest hport
  induction is generalizing s with
  | nil =>
    obtain rfl : s.port = rest := hport
    exact run_zero s
  | cons i is ih =>
    obtain ⟨t, hexec, hkept⟩ :=
      exists_exec_next_port_eq { s with port := is.map (fun i => .issue (encode i)) ++ rest } i
    have hstep := (step_of_decode_ok hport (decode_encode i)).trans hexec
    have hfirst := runInstrs_cons_of_next is (exec_with_port hexec rest)
    exact (run_succ is.length s t hstep).trans ((ih t hkept).trans hfirst.symm)

/-- What every step keeps holds along every run. -/
theorem run_keeps {P : State → Prop} (hkeeps : ∀ s t, P s → step s = .next t → P t) (k : Nat)
    {s t : State} (hs : P s) (h : Host.Core.run Sys2Proof.core k s = .next t) : P t := by
  induction k generalizing s with
  | zero => exact Host.Outcome.next.inj ((run_zero s).symm.trans h) ▸ hs
  | succ k ih =>
    obtain ⟨u, hstep, -⟩ := exists_stepsTo s
    exact ih (hkeeps s u hs hstep) ((run_succ k s u hstep).symm.trans h)

end Sys2Proof.Machine
end

section
/-! The invariant (spec/10_state.md R29, R30): every write of Machine/Ops.lean keeps it, and the reset states
meet it. -/

namespace Sys2Proof.Machine

section
variable {s u : State} {i : Instr} {v : Word} {r : Response}

theorem slotOk_of_unsealed (h : s.chunk = none) : slotOk s := fun _ hc => nomatch h.symm.trans hc

/-- A slot just sealed is good when its CRC is the one of its type and payload (R93, R124). -/
theorem slotOk_of_chunk_eq {c : Chunk} (h : s.chunk = some c) (hcrc : c.crc = chunkCrc c.code s.pay) :
    slotOk s := fun _ hd => Option.some.inj (h.symm.trans hd) ▸ hcrc

theorem Writes.memory (h : Writes s i u v) (hs : Memory.wf s) : Memory.wf u := by
  have ⟨hpay, hrx, _⟩ := hs
  cases h with
  | sysRst => exact resetBlock_memory
  | crcInit => exact setCrcacc_memory _ hs
  | crcUpd b => exact setCrcacc_memory _ hs
  | chClr => exact clearSlot_memory hs
  | chPush b h hroom => exact stageByte_memory b hs (Nat.lt_of_le_of_ne hpay hroom)
  | chNew w => exact sealSlot_memory _ _ hs
  | serEmit h hroom => exact enqueueTx_memory _ hs (by rwa [frameBytes_length])
  | txPop => exact dequeueTx_memory _ hs
  | txFlush => exact dequeueTx_memory _ hs
  | rxPush b hroom => exact enqueueRx_memory _ hs (Nat.lt_of_le_of_ne hrx hroom)
  | rxFlush => exact dequeueRx_memory _ hs
  | desParse h =>
    obtain ⟨-, hmax, hlen, -⟩ := parseFrame_ok h
    exact loadFrame_memory _ hs (hlen.trans_le hmax)

theorem Writes.slot (h : Writes s i u v) (hs : slotOk s) : slotOk u := by
  cases h with
  | sysRst => exact slotOk_of_unsealed rfl
  | chClr => exact slotOk_of_unsealed rfl
  | chPush b h => exact slotOk_of_unsealed h
  | chNew w => exact slotOk_of_chunk_eq rfl rfl
  | desParse h =>
    obtain ⟨-, -, -, -, -, -, hcrc⟩ := parseFrame_ok h
    exact slotOk_of_chunk_eq rfl hcrc
  | _ => exact hs

theorem Does.inv (h : Does s i u r) (hs : s.Inv) : u.Inv := by
  obtain ⟨hcfg, -⟩ := h.cfg_port_eq
  cases h with
  | refuses | reads => exact hs
  | writes h => exact ⟨hcfg ▸ hs.config, h.memory hs.memory, h.slot hs.slot⟩

/-- The invariant does not speak of the host's side (R20). -/
theorem State.Inv.with_host (h : s.Inv) (p : List HostMove) (rs : List Response) :
    { s with port := p, responses := rs }.Inv := ⟨h.config, h.memory, h.slot⟩

end

/-- Settles O42: a step is silent, resets the block, answers, or does what a command does, and each keeps the
invariant. -/
theorem stepKeepsInvariant : Obligations.StepKeepsInvariant := by
  unfold Obligations.StepKeepsInvariant
  intro s t hs h
  cases stepsTo_of_step h with
  | silent => exact hs
  | reset => exact ⟨hs.config, resetBlock_memory, slotOk_of_unsealed rfl⟩
  | illegal => exact hs.with_host _ _
  | command _ _ hdoes => exact (hdoes.inv (hs.with_host _ _)).with_host _ _

theorem resetWith_inv {cfg : Config} (h : cfg.wf = true) : (State.resetWith cfg).Inv :=
  ⟨h, resetWith_memory cfg, slotOk_of_unsealed rfl⟩

/-- Settles O39: the reset state written out, and the largest capacities of R5 are in their ranges. -/
theorem resetStateIsAsSpecified : Obligations.ResetStateIsAsSpecified := by
  unfold Obligations.ResetStateIsAsSpecified
  exact ⟨fun _ => rfl, Config.largest, by decide, rfl⟩

/-- Settles O40: the stores are empty and the slot is unsealed. -/
theorem resetStateMeetsInvariant : Obligations.ResetStateMeetsInvariant := by
  unfold Obligations.ResetStateMeetsInvariant
  exact ⟨fun _ => resetWith_inv, resetWith_inv (by decide)⟩

/-- Settles O43: the invariant holds at reset, whatever the host is going to do, and along every run. -/
theorem reachableStatesMeetInvariant : Obligations.ReachableStatesMeetInvariant := by
  unfold Obligations.ReachableStatesMeetInvariant
  intro cfg moves k t hcfg hrun
  have hreset := (resetWith_inv hcfg).with_host moves []
  have ht : t.Inv := run_keeps stepKeepsInvariant k hreset hrun
  exact ⟨ht.slot, ht.memory⟩

/-- Settles O41: each read answers from a register at its reset value, and the other commands find the slot
unsealed or a queue empty. -/
theorem firstResponsesAfterReset : Obligations.FirstResponsesAfterReset := by
  unfold Obligations.FirstResponsesAfterReset
  rintro cfg s rfl
  exact ⟨(crcRd_onlyAnswers_zero rfl).exec_eq, (chStat_onlyAnswers _).exec_eq,
    (chRdlen_onlyAnswers _).exec_eq, (rxCnt_onlyAnswers _).exec_eq, (txCnt_onlyAnswers _).exec_eq,
    (chRdtype_onlyAnswers_of_none rfl).exec_eq, (chRdcrc_onlyAnswers_of_none rfl).exec_eq, exec_serEmit_of_none rfl,
    fun _ => (chRdpay_onlyAnswers_of_none rfl).exec_eq, exec_txPop_of_nil rfl,
    exec_desParse_of_short (Nat.succ_pos 11)⟩

/-! ### Counts (R7, R62) -/

theorem countWord_toNat_of_lt {n : Nat} (h : n < 2 ^ 32) : (countWord n).toNat = n := by
  rw [countWord, BitVec.toNat_ofNat, Nat.mod_eq_of_lt h]

/-- R5, R30: in a good state each byte store holds fewer than 2^32 bytes. -/
theorem State.Inv.lengths_lt {s : State} (h : s.Inv) :
    s.pay.length < 2 ^ 32 ∧ s.rxq.length < 2 ^ 32 ∧ s.txq.length < 2 ^ 32 := by
  obtain ⟨hpay, hrx, htx⟩ := h.memory
  have hcfg := h.config
  simp only [Config.wf, Bool.and_eq_true, decide_eq_true_eq] at hcfg
  omega

/-- Settles O53: a count that fits 32 bits is the value of its word, and a frame that DES.PARSE took was part
of RXQ. -/
theorem countsFitTheValueField : Obligations.CountsFitTheValueField := by
  unfold Obligations.CountsFitTheValueField
  intro s hs
  obtain ⟨hpay, hrx, htx⟩ := hs.lengths_lt
  refine ⟨⟨_, (chRdlen_onlyAnswers s).exec_eq, countWord_toNat_of_lt hpay⟩,
    ⟨_, (rxCnt_onlyAnswers s).exec_eq, countWord_toNat_of_lt hrx⟩,
    ⟨_, (txCnt_onlyAnswers s).exec_eq, countWord_toNat_of_lt htx⟩, fun t v h hv => ?_⟩
  rcases exec_desParse_cases h with ⟨e, he, rfl⟩ | ⟨c, p, rest, hq, rfl⟩
  · obtain ⟨hok, -⟩ : e = .ok ∧ 0#32 = v := by simpa using hv
    exact absurd hok he
  · obtain rfl : countWord (frameLength p.length) = v := by simpa using hv
    have hlen : s.rxq.length = frameLength p.length + rest.length := by
      rw [hq, List.length_append, frameBytes_length]
    have htaken : (countWord (frameLength p.length)).toNat = frameLength p.length :=
      countWord_toNat_of_lt (by omega)
    exact ⟨htaken, by rw [htaken, hlen]⟩

end Sys2Proof.Machine
end

section
/-! Fields of words (spec/00_scope.md R10, spec/30_encoding.md R62, spec/60_exceptions.md R151). -/

namespace Sys2Proof.Machine

/-- The status a code stands for (R151), read back from `Status.code`. -/
def Status.ofCode (code : Byte) : Option Status :=
  [Status.ok, .truncatedInput, .crcMismatch, .illegalCommand, .notSealed, .sealed, .indexRange, .payloadFull,
    .rxFull, .txFull, .txEmpty].find? fun st => st.code == code

theorem Status.ofCode_code (st : Status) : Status.ofCode st.code = some st := by
  cases st <;> rfl

theorem Status.code_injective : Function.Injective Status.code := fun a b h =>
  Option.some.inj (by rw [← ofCode_code a, h, ofCode_code b])

/-- Settles O5: a response word has the two fields of a command word, and the code gives the status back. -/
theorem responseWordCarriesStatusAndValue : Obligations.ResponseWordCarriesStatusAndValue := by
  unfold Obligations.ResponseWordCarriesStatusAndValue
  exact ⟨fun r => ⟨Laws.opField_commandWord r.status.code r.value,
      Laws.argField_commandWord r.status.code r.value⟩,
    rfl, rfl, rfl, rfl, rfl, rfl, rfl, rfl, rfl, rfl, rfl, Status.code_injective⟩

/-- Settles O6: the byte-order laws of `be32` and `unbe32`. -/
theorem fieldsAreBigEndian : Obligations.FieldsAreBigEndian := by
  unfold Obligations.FieldsAreBigEndian
  exact ⟨fun v => ⟨rfl, unbe32_extract v, rfl, TypeCode.toWord_ofWord v⟩,
    fun b0 b1 b2 b3 => ⟨unbe32_toNat b0 b1 b2 b3, be32_unbe32 b0 b1 b2 b3⟩⟩

end Sys2Proof.Machine
end

section
/-! A frame longer than the receive queue (spec/70_reset_and_hazards.md R178). -/

namespace Sys2Proof.Machine

/-- RX.PUSH of any bytes only appends to RXQ, never beyond its capacity, and answers (R121). -/
theorem exists_runInstrs_map_rxPush (bs : List Byte) {s : State} (h : s.rxq.length ≤ s.cfg.rxMax) :
    ∃ (taken : List Byte) (rs : List Response),
      runInstrs (bs.map .rxPush) s = .next { s with rxq := s.rxq ++ taken, responses := rs } ∧
      (s.rxq ++ taken).length ≤ s.cfg.rxMax := by
  induction bs generalizing s with
  | nil => exact ⟨[], s.responses, by rw [List.append_nil]; rfl, by rwa [List.append_nil]⟩
  | cons b bs ih =>
    rw [List.map_cons]
    by_cases hfull : s.rxq.length = s.cfg.rxMax
    · rw [runInstrs_cons_of_next _ (exec_rxPush_of_full b hfull)]
      exact ih (s := { s with responses := _ }) h
    · rw [runInstrs_cons_of_next _ (exec_rxPush_of_room b hfull)]
      have hfit : (s.rxq ++ [b]).length ≤ s.cfg.rxMax := by
        rw [List.length_append, List.length_singleton]
        omega
      obtain ⟨taken, rs, hrun, hlen⟩ := ih (s := { s with rxq := s.rxq ++ [b], responses := _ }) hfit
      rw [List.append_assoc, List.singleton_append] at hrun hlen
      exact ⟨b :: taken, rs, hrun, hlen⟩

/-- Settles O28: the pushes leave the length field at the head of RXQ, and RXQ never holds as many bytes as it
declares. -/
theorem frameLongerThanQueueNeverCompletes : Obligations.FrameLongerThanQueueNeverCompletes := by
  unfold Obligations.FrameLongerThanQueueNeverCompletes
  intro s l0 l1 l2 l3 q hinv hq hlong bs
  obtain ⟨-, hrx, -⟩ := hinv.memory
  obtain ⟨taken, rs, hrun, hlen⟩ := exists_runInstrs_map_rxPush bs hrx
  have hword : (wordAt (s.rxq ++ taken) 0).toNat =
      l0.toNat * 2 ^ 24 + l1.toNat * 2 ^ 16 + l2.toNat * 2 ^ 8 + l3.toNat := by
    rw [hq]
    exact unbe32_toNat l0 l1 l2 l3
  have hshort : (s.rxq ++ taken).length < frameLength (wordAt (s.rxq ++ taken) 0).toNat := by
    rw [hword, frameLength]
    omega
  refine ⟨_, (runInstrs_append_of_next _ hrun).trans
    (runInstrs_singleton (exec_desParse_of_incomplete hshort)), ?_, rfl, rfl⟩
  exact List.getLast?_concat

end Sys2Proof.Machine
end

section
/-! Pseudo-commands (spec/30_encoding.md R76): while every command answers OK the host's run of one is the run
of its commands, and the first error ends it. -/

namespace Sys2Proof.Machine

theorem lastOk_of_responses {s : State} {rs : List Response} {r : Response} (h : s.responses = rs ++ [r]) :
    lastOk s = (r.status == .ok) := by
  simp [lastOk, h]

section
variable {i : Instr} {s t : State} {r : Response}

theorem runUntilError_cons_of_ok (is : List Instr) (h : exec i s = .next t)
    (hr : t.responses = s.responses ++ [r]) (hok : r.status = .ok) :
    runUntilError (i :: is) s = runUntilError is t := by
  simp [runUntilError, h, lastOk_of_responses hr, hok]

theorem runUntilError_cons_of_error (is : List Instr) (h : exec i s = .next t)
    (hr : t.responses = s.responses ++ [r]) (hne : r.status ≠ .ok) :
    runUntilError (i :: is) s = .next t := by
  simp [runUntilError, h, lastOk_of_responses hr, hne]

/-- Commands only add responses. -/
theorem responses_isPrefix_of_runInstrs {is : List Instr} (h : runInstrs is s = .next t) :
    s.responses <+: t.responses := by
  induction is generalizing s with
  | nil =>
    cases h
    exact ⟨[], List.append_nil _⟩
  | cons i is ih =>
    obtain ⟨u, r, hdoes⟩ := exists_does s i
    rw [runInstrs_cons_of_next _ hdoes.exec_eq] at h
    exact List.IsPrefix.trans ⟨[r], rfl⟩ (ih h)

/-- Commands that all answer OK run to their end, and the host goes on to what it issues next. -/
theorem runUntilError_append_of_all_ok {is : List Instr} (js : List Instr) {rs : List Response}
    (h : runInstrs is s = .next t) (hrs : t.responses = s.responses ++ rs) (hok : ∀ r ∈ rs, r.status = .ok) :
    runUntilError (is ++ js) s = runUntilError js t := by
  induction is generalizing s rs with
  | nil =>
    cases h
    rfl
  | cons i is ih =>
    obtain ⟨u, r, hdoes⟩ := exists_does s i
    rw [runInstrs_cons_of_next _ hdoes.exec_eq] at h
    obtain ⟨rest, hrest⟩ := responses_isPrefix_of_runInstrs h
    have hsplit : rs = r :: rest := by
      rw [hrs, List.append_assoc] at hrest
      exact (List.append_cancel_left hrest).symm
    rw [hsplit] at hok
    rw [List.cons_append, runUntilError_cons_of_ok _ hdoes.exec_eq rfl (hok r List.mem_cons_self)]
    exact ih h hrest.symm fun r' hr' => hok r' (List.mem_cons_of_mem r hr')

theorem runUntilError_of_all_ok {is : List Instr} {rs : List Response} (h : runInstrs is s = .next t)
    (hrs : t.responses = s.responses ++ rs) (hok : ∀ r ∈ rs, r.status = .ok) : runUntilError is s = .next t := by
  rw [← List.append_nil is]
  exact runUntilError_append_of_all_ok [] h hrs hok

theorem status_ok_of_mem_replicate {n : Nat} (h : r ∈ List.replicate n (⟨.ok, 0#32⟩ : Response)) :
    r.status = .ok := by
  rw [List.eq_of_mem_replicate h]

/-- A command issued once per byte that answers OK up to a state where it answers `e` to any byte: the host
stops there, at the first byte that is left. -/
theorem runUntilError_map_append {op : Byte → Instr} {bs : List Byte} (more : List Byte) {e : Status}
    (h : runInstrs (bs.map op) s = .next t)
    (hrs : t.responses = s.responses ++ List.replicate bs.length ⟨.ok, 0#32⟩)
    (hstop : ∀ b, exec (op b) t = .next { t with responses := t.responses ++ [⟨e, 0#32⟩] }) (he : e ≠ .ok) :
    runUntilError ((bs ++ more).map op) s =
      .next { t with responses := t.responses ++ if more = [] then [] else [⟨e, 0#32⟩] } := by
  have hok : ∀ r ∈ List.replicate bs.length (⟨.ok, 0#32⟩ : Response), r.status = .ok := fun _ =>
    status_ok_of_mem_replicate
  cases more with
  | nil => rw [List.append_nil, runUntilError_of_all_ok h hrs hok, if_pos rfl, List.append_nil]
  | cons b more =>
    rw [List.map_append, List.map_cons, runUntilError_append_of_all_ok _ h hrs hok,
      runUntilError_cons_of_error _ (hstop b) rfl he, if_neg (List.cons_ne_nil b more)]

end

/-! ### The runs of R76 -/

/-- CH.PUSHB with room for exactly `bs` stages them and stops at the next byte (R76, R92). -/
theorem runPseudo_chPushB (s : State) (bs more : List Byte) (h : s.chunk = none)
    (hfit : s.pay.length + bs.length = s.cfg.payloadMax) :
    runPseudo (.chPushB (bs ++ more)) s = .next
      { s with pay := s.pay ++ bs,
               responses := s.responses ++ List.replicate bs.length ⟨.ok, 0#32⟩ ++
                 if more = [] then [] else [⟨.payloadFull, 0#32⟩] } := by
  have hrun := runInstrs_map_chPush_append bs [] s h hfit.le
  rw [List.append_nil, runInstrs_nil] at hrun
  have hfull : (s.pay ++ bs).length = s.cfg.payloadMax := List.length_append.trans hfit
  exact runUntilError_map_append more hrun rfl (fun b => exec_chPush_of_full b h hfull) (by decide)

/-- RX.PUSHB with room for exactly `bs` queues them and stops at the next byte (R76, R121). -/
theorem runPseudo_rxPushB (s : State) (bs more : List Byte) (hfit : s.rxq.length + bs.length = s.cfg.rxMax) :
    runPseudo (.rxPushB (bs ++ more)) s = .next
      { s with rxq := s.rxq ++ bs,
               responses := s.responses ++ List.replicate bs.length ⟨.ok, 0#32⟩ ++
                 if more = [] then [] else [⟨.rxFull, 0#32⟩] } := by
  have hrun := runInstrs_map_rxPush_append bs [] s hfit.le
  rw [List.append_nil, runInstrs_nil] at hrun
  have hfull : (s.rxq ++ bs).length = s.cfg.rxMax := List.length_append.trans hfit
  exact runUntilError_map_append more hrun rfl (fun b => exec_rxPush_of_full b hfull) (by decide)

/-- TX.POPN of more bytes than TXQ holds returns them all and stops at the next TX.POP (R76, R112). -/
theorem runPseudo_txPopN (s : State) (n : Nat) (h : s.txq.length < n) :
    runPseudo (.txPopN n) s = .next
      { s with txq := [],
               responses := s.responses ++ s.txq.map (fun b => ⟨.ok, b.setWidth 32⟩) ++
                 [⟨.txEmpty, 0#32⟩] } := by
  have hrun := runInstrs_replicate_txPop s.txq [] s (List.append_nil _).symm
  obtain ⟨k, rfl⟩ : ∃ k, n = s.txq.length + (k + 1) := ⟨n - s.txq.length - 1, by omega⟩
  have hok : ∀ r ∈ s.txq.map (fun b => (⟨.ok, b.setWidth 32⟩ : Response)), r.status = .ok := by simp
  rw [runPseudo, Pseudo.expand, ← List.replicate_append_replicate, List.replicate_succ,
    runUntilError_append_of_all_ok _ hrun rfl hok]
  exact runUntilError_cons_of_error _ (exec_txPop_of_nil rfl) rfl (by decide)

/-- CRC.UPDS never stops early (R76, R85). -/
theorem runPseudo_crcUpdS (s : State) (bs : List Byte) :
    runPseudo (.crcUpdS bs) s = .next
      { s with crcacc := crcFold s.crcacc bs,
               responses := s.responses ++ List.replicate bs.length ⟨.ok, 0#32⟩ } := by
  have hrun := runInstrs_map_crcUpd_append bs [] s
  rw [List.append_nil, runInstrs_nil] at hrun
  exact runUntilError_of_all_ok hrun rfl fun _ => status_ok_of_mem_replicate

/-- Settles O54: the bytes with room all answer OK, the command after them is the first error; the text forms
expand to the same commands as the byte forms. -/
theorem pseudoCommandsStopAtFirstError : Obligations.PseudoCommandsStopAtFirstError := by
  unfold Obligations.PseudoCommandsStopAtFirstError
  exact ⟨runPseudo_chPushB, runPseudo_rxPushB, runPseudo_txPopN, fun s bs => ⟨rfl, runPseudo_crcUpdS s bs⟩⟩

end Sys2Proof.Machine
end
